-- ==== Sys2Proof/Word.lean ====
section
/-!
DEFINITION. The word types of the SWD probe engine: 32-bit words (spec 00_scope.md R9) and image bytes.
-/

namespace Sys2Proof

/-- A transaction payload, target address, memory word or flash word: 32 bits (R9). -/
abbrev Word := BitVec 32

/-- One byte of the flash image (R68). -/
abbrev Byte := BitVec 8

end Sys2Proof
end

