-- ==== Sys2Proof/Config.lean ====
section
/-!
DEFINITION. What is fixed when a block is instantiated: the parameters of spec 00_scope.md R8 as a record of plain
data, the kinds of pin events and notifications (they are what the free functions below look at), and the free
values, each an opaque constant that no proof can see through.
-/

namespace Sys2Proof

/-- SWDIO's direction (10_state.md R21). -/
inductive Dir where
  | output | input
  deriving DecidableEq, Repr

/-- One pin primitive with its argument; for `SampleDio` the value returned (00_scope.md R12, 10_state.md R38). -/
inductive PinEvent where
  | setClk (v : Bool)
  | setDio (v : Bool)
  | setDir (d : Dir)
  | setRst (v : Bool)
  | sampleDio (v : Bool)
  | delay (us : Nat)
  deriving DecidableEq, Repr

/-- `ProgrammingStatus` (10_state.md R34). -/
inductive Status where
  | idle | initializing | programming | verifying | success | error
  deriving DecidableEq, Repr

/-- One entry of the notification history `NOTE` (10_state.md R45). -/
inductive Note where
  | status (s : Status)
  | progress (p : Nat)
  deriving DecidableEq, Repr

/-- `REQ_FORMAT`: the request header's format (30_encoding.md R90, R92). -/
inductive ReqFormat where
  | doc7 | adiv5
  deriving DecidableEq, Repr

/-- `WDATA_PARITY`: the outgoing data parity (41_transaction.md R144). -/
inductive WdataParity where
  | zero | even
  deriving DecidableEq, Repr

/-- `RDATA_PARITY`: what is done with the incoming data parity (41_transaction.md R143). -/
inductive RdataParity where
  | ignore | check
  deriving DecidableEq, Repr

/-- The implementation parameters of 00_scope.md R8, one field each and in its order. `STATUS_TEXT`, a function, is
`statusMessage`; the `LED_PERIOD_MS` table is the four `led…Ms` fields (45_status_orchestrator.md R296). -/
structure Params where
  reqFormat : ReqFormat
  readTrn : Nat
  wdataParity : WdataParity
  rdataParity : RdataParity
  waitRetries : Nat
  ackOk : BitVec 3
  ackWait : BitVec 3
  ackFault : BitVec 3
  nLrHigh : Nat
  nIdle : Nat
  jtagToSwd : BitVec 16
  tHalfUs : Nat
  tRstHoldUs : Nat
  tRstBootUs : Nat
  nPoll : Nat
  tPollUs : Nat
  pwrReq : Word
  pwrAckMask : Word
  idcodeM34 : Word
  idcodeM0p : Word
  selIdrBank : Word
  selBank0 : Word
  idrLocked : Word
  idrFamilyA : Word
  idrFamilyB : Word
  cswValue : Word
  dhcsrAddr : Word
  dhcsrHalt : Word
  demcrAddr : Word
  demcrVc : Word
  aircrAddr : Word
  aircrReset : Word
  flashBase : Word
  mscBase : Word
  pageSize : Word
  offWritectrl : Word
  offWritecmd : Word
  offAddrb : Word
  offWdata : Word
  mscWren : Word
  cmdLaddrim : Word
  cmdErasepage : Word
  cmdWritetrig : Word
  cmdErasemain : Word
  massThreshold : Word
  tPageSettleUs : Nat
  tMassSettleUs : Nat
  tWordSettleUs : Nat
  verifyMaxErr : Nat
  progressStride : Nat
  pEraseEnd : Nat
  pWriteEnd : Nat
  pVerifyEnd : Nat
  ledInitializingMs : Nat
  ledProgrammingMs : Nat
  ledVerifyingMs : Nat
  ledErrorMs : Nat
  doubleClickMs : Nat
  rstTestCycles : Nat
  rstTestLowMs : Nat
  rstTestHighMs : Nat
  deriving DecidableEq, Repr

/-! ### Free values: nothing constrains them. -/

/-- The target oracle (20_memory.md R61): the level it answers after a given event history, newest event first.
Free value, log 4. -/
opaque Config.oracle : List PinEvent → Bool

/-- `T_HALF_US`, left OPEN by 00_scope.md R8. Log 14. -/
opaque Config.tHalfUs : Nat

/-- `T_PAGE_SETTLE_US`, left OPEN by 00_scope.md R8. Log 14. -/
opaque Config.tPageSettleUs : Nat

/-- `T_MASS_SETTLE_US`, left OPEN by 00_scope.md R8. Log 14. -/
opaque Config.tMassSettleUs : Nat

/-- `T_WORD_SETTLE_US`, left OPEN by 00_scope.md R8. Log 14. -/
opaque Config.tWordSettleUs : Nat

/-- `STATUS_TEXT`, left OPEN by 92_eei_decisions.md D48: where the text of a notification is taken from;
`statusMessage` keeps it under 64 characters (45_status_orchestrator.md R293). Log 14. -/
opaque Config.statusText : Note → String

/-- `REG.err_count` outside the flash commands (10_state.md R37: unspecified), for the n-th draw. Log 9. -/
opaque Config.freeErrCount : Nat → Nat

/-- `REG.index` outside the flash commands (10_state.md R37: unspecified), for the n-th draw. Log 9. -/
opaque Config.freeIndex : Nat → Nat

/-- `REG.index` from the start of a flash write to its first word (60_exceptions.md R330: unspecified if the enable
write failed), in the command of the n-th draw. Log 9. -/
opaque Config.freeWriteIndex : Nat → Nat

/-- What a read of image byte `j` gives where the host supplied no such byte (60_exceptions.md R345 states no value),
after a given event history, newest event first. Log 11. -/
opaque Config.missingByte : List PinEvent → Nat → Byte

/-- Whether word k is a progress word where `PROGRESS_STRIDE = 0`, which gives `(k + 1) mod 0` no value. Log 15. -/
opaque Config.strideZeroHit : Nat → Bool

end Sys2Proof
end

