-- ==== Sys2Proof/Syntax.lean ====
section
/-!
DEFINITION. The instructions: one constructor per row of spec/opcode_table.json, and the frame a row is read from
(a 16-bit command word, or the bits of a request header).
-/

namespace Sys2Proof

/-- The port of a transaction: Debug Port or Access Port (41_transaction.md R140). -/
inductive Port where
  | dp | ap
  deriving DecidableEq, Repr

/-- The instructions. The first 25 are the command words of 30_encoding.md R101 (operands that are not in the word
come from `ARG_ADDR`, `ARG_DATA`, `ARG_LEN` and `IMAGE`); the other 24 are the request headers of R90 and R92, the
frames that a transaction puts on the wire. -/
inductive Instr where
  /-- `CLK_CYCLE` (R120), CMD16 0x0001. -/
  | clkCycle
  /-- `WRITE_BIT` (R121), CMD16 0x0002. -/
  | writeBit (b : Bool)
  /-- `READ_BIT` (R122), CMD16 0x0003. -/
  | readBit
  /-- `WRITE_WORD` (R123), CMD16 0x0004. -/
  | writeWord
  /-- `READ_WORD` (R124), CMD16 0x0005. -/
  | readWord
  /-- `HW_RESET_PULSE` (R170), CMD16 0x0010. -/
  | hwResetPulse
  /-- `LINE_RESET` (R171), CMD16 0x0011. -/
  | lineReset
  /-- `JTAG_TO_SWD` (R172), CMD16 0x0012. -/
  | jtagToSwd
  /-- `LINK_INIT` (R173), CMD16 0x0013. -/
  | linkInit
  /-- `XFER` (R140), CMD16 0x0020. -/
  | xfer (port : Port) (rnw : Bool) (a : BitVec 2)
  /-- `POWER_UP` (R180), CMD16 0x0030. -/
  | powerUp
  /-- `AP_CONFIG` (R190), CMD16 0x0031. -/
  | apConfig
  /-- `CPU_HALT` (R200), CMD16 0x0032. -/
  | cpuHalt
  /-- `CPU_RESET` (R201), CMD16 0x0033. -/
  | cpuReset
  /-- `MEM_READ` (R220), CMD16 0x0040. -/
  | memRead
  /-- `MEM_WRITE` (R222), CMD16 0x0041. -/
  | memWrite
  /-- `FLASH_ERASE` (R243), CMD16 0x0050. -/
  | flashErase
  /-- `MASS_ERASE` (R241), CMD16 0x0051. -/
  | massErase
  /-- `PAGE_ERASE` (R242), CMD16 0x0052. -/
  | pageErase
  /-- `FLASH_WRITE` (R251), CMD16 0x0053. -/
  | flashWrite
  /-- `FLASH_VERIFY` (R260), CMD16 0x0054. -/
  | flashVerify
  /-- `RUN` (R300), CMD16 0x0060. -/
  | run
  /-- `RESET_PIN_TEST` (R312), CMD16 0x0061. -/
  | resetPinTest
  /-- `TICK` (R298), CMD16 0x0070. -/
  | tick
  /-- `PRESS` (R310), CMD16 0x0071. -/
  | press
  /-- `REQ.DOC7.W.A0` (R90), REQ7 0x41. -/
  | reqDoc7W0
  /-- `REQ.DOC7.W.A1` (R90), REQ7 0x59. -/
  | reqDoc7W1
  /-- `REQ.DOC7.W.A2` (R90), REQ7 0x55. -/
  | reqDoc7W2
  /-- `REQ.DOC7.W.A3` (R90), REQ7 0x4D. -/
  | reqDoc7W3
  /-- `REQ.DOC7.R.A0` (R90), REQ7 0x53. -/
  | reqDoc7R0
  /-- `REQ.DOC7.R.A1` (R90), REQ7 0x4B. -/
  | reqDoc7R1
  /-- `REQ.DOC7.R.A2` (R90), REQ7 0x47. -/
  | reqDoc7R2
  /-- `REQ.DOC7.R.A3` (R90), REQ7 0x5F. -/
  | reqDoc7R3
  /-- `REQ.ADIV5.DP.W.A0` (R92), REQ8 0x81. -/
  | reqAdiv5DpW0
  /-- `REQ.ADIV5.DP.W.A1` (R92), REQ8 0xA9. -/
  | reqAdiv5DpW1
  /-- `REQ.ADIV5.DP.W.A2` (R92), REQ8 0xB1. -/
  | reqAdiv5DpW2
  /-- `REQ.ADIV5.DP.W.A3` (R92), REQ8 0x99. -/
  | reqAdiv5DpW3
  /-- `REQ.ADIV5.DP.R.A0` (R92), REQ8 0xA5. -/
  | reqAdiv5DpR0
  /-- `REQ.ADIV5.DP.R.A1` (R92), REQ8 0x8D. -/
  | reqAdiv5DpR1
  /-- `REQ.ADIV5.DP.R.A2` (R92), REQ8 0x95. -/
  | reqAdiv5DpR2
  /-- `REQ.ADIV5.DP.R.A3` (R92), REQ8 0xBD. -/
  | reqAdiv5DpR3
  /-- `REQ.ADIV5.AP.W.A0` (R92), REQ8 0xA3. -/
  | reqAdiv5ApW0
  /-- `REQ.ADIV5.AP.W.A1` (R92), REQ8 0x8B. -/
  | reqAdiv5ApW1
  /-- `REQ.ADIV5.AP.W.A2` (R92), REQ8 0x93. -/
  | reqAdiv5ApW2
  /-- `REQ.ADIV5.AP.W.A3` (R92), REQ8 0xBB. -/
  | reqAdiv5ApW3
  /-- `REQ.ADIV5.AP.R.A0` (R92), REQ8 0x87. -/
  | reqAdiv5ApR0
  /-- `REQ.ADIV5.AP.R.A1` (R92), REQ8 0xAF. -/
  | reqAdiv5ApR1
  /-- `REQ.ADIV5.AP.R.A2` (R92), REQ8 0xB7. -/
  | reqAdiv5ApR2
  /-- `REQ.ADIV5.AP.R.A3` (R92), REQ8 0x9F. -/
  | reqAdiv5ApR3
  deriving DecidableEq, Repr

/-- Where an instruction is read from: the command register `CMD` (10_state.md R41), or a request header whose bit i
is the i-th bit transmitted (30_encoding.md, opening words). A DOC7 header has 7 bits, so its bit 7 is 0; an ADIV5
header has 8 bits, and its last, the park bit, is 1 (log 6). -/
inductive Frame where
  | cmd (w : BitVec 16)
  | header (w : BitVec 8)
  deriving DecidableEq, Repr

/-! ### The pseudo-commands of 30_encoding.md R106: each is one `XFER`. -/

/-- `DP_READ IDCODE`. -/
def Instr.dpReadIdcode : Instr := .xfer .dp true 0
/-- `DP_READ CTRLSTAT`. -/
def Instr.dpReadCtrlstat : Instr := .xfer .dp true 1
/-- `DP_WRITE CTRLSTAT, v`. -/
def Instr.dpWriteCtrlstat : Instr := .xfer .dp false 1
/-- `DP_WRITE SELECT, v`. -/
def Instr.dpWriteSelect : Instr := .xfer .dp false 2
/-- `DP_READ RDBUFF`. -/
def Instr.dpReadRdbuff : Instr := .xfer .dp true 3
/-- `AP_WRITE CSW, v`. -/
def Instr.apWriteCsw : Instr := .xfer .ap false 0
/-- `AP_WRITE TAR, v`. -/
def Instr.apWriteTar : Instr := .xfer .ap false 1
/-- `AP_READ DRW`. -/
def Instr.apReadDrw : Instr := .xfer .ap true 3
/-- `AP_WRITE DRW, v`. -/
def Instr.apWriteDrw : Instr := .xfer .ap false 3
/-- `AP_READ IDR`: the same word as `AP_READ DRW`; the target's SELECT bank tells them apart. -/
def Instr.apReadIdr : Instr := .xfer .ap true 3

end Sys2Proof
end

