-- ==== Sys2Proof/Decode.lean ====
section
/-!
DEFINITION. The decoder, total on every command word and every header byte, and the encoder
(spec 30_encoding.md R90, R92, R100 to R103).
-/

namespace Sys2Proof

/-- Why a word is no instruction (30_encoding.md R103). -/
inductive DecodeError where
  /-- A nonzero bit in [15:12] of a command word. -/
  | reservedBits
  /-- An `OP` that R101 does not list. -/
  | reservedOp
  /-- A nonzero `B`, `A` or `P` where the command does not use it. -/
  | unusedField
  /-- A byte that is no request header of R90 or R92. -/
  | notAHeader
  deriving DecidableEq, Repr

/-- `CMD.P` as a port: 0 is DP, 1 is AP (R100). -/
def portOfBit (b : Bool) : Port := if b then .ap else .dp

/-- A port as `CMD.P` and as `apndp` (R91, R100). -/
def bitOfPort : Port → Bool
  | .dp => false
  | .ap => true

/-- A command word's row: it matches where `word & mask = pattern` (R102). -/
structure CmdRow where
  mask : BitVec 16
  pattern : BitVec 16
  build : BitVec 16 → Instr

/-- A request header's row. -/
structure HeaderRow where
  pattern : BitVec 8
  instr : Instr

/-- Transport, link and transaction rows of R101. -/
def cmdRowsLow : List CmdRow :=
  [
    ⟨0xFFFF, 0x0001, fun _ => .clkCycle⟩,
    ⟨0xFEFF, 0x0002, fun w => .writeBit (w.getLsbD 8)⟩,
    ⟨0xFFFF, 0x0003, fun _ => .readBit⟩,
    ⟨0xFFFF, 0x0004, fun _ => .writeWord⟩,
    ⟨0xFFFF, 0x0005, fun _ => .readWord⟩,
    ⟨0xFFFF, 0x0010, fun _ => .hwResetPulse⟩,
    ⟨0xFFFF, 0x0011, fun _ => .lineReset⟩,
    ⟨0xFFFF, 0x0012, fun _ => .jtagToSwd⟩,
    ⟨0xFFFF, 0x0013, fun _ => .linkInit⟩,
    ⟨0xF0FF, 0x0020, fun w => .xfer (portOfBit (w.getLsbD 11)) (w.getLsbD 8) (w.extractLsb' 9 2)⟩
  ]

/-- The rows of R101 above the transaction engine. -/
def cmdRowsHigh : List CmdRow :=
  [
    ⟨0xFFFF, 0x0030, fun _ => .powerUp⟩,
    ⟨0xFFFF, 0x0031, fun _ => .apConfig⟩,
    ⟨0xFFFF, 0x0032, fun _ => .cpuHalt⟩,
    ⟨0xFFFF, 0x0033, fun _ => .cpuReset⟩,
    ⟨0xFFFF, 0x0040, fun _ => .memRead⟩,
    ⟨0xFFFF, 0x0041, fun _ => .memWrite⟩,
    ⟨0xFFFF, 0x0050, fun _ => .flashErase⟩,
    ⟨0xFFFF, 0x0051, fun _ => .massErase⟩,
    ⟨0xFFFF, 0x0052, fun _ => .pageErase⟩,
    ⟨0xFFFF, 0x0053, fun _ => .flashWrite⟩,
    ⟨0xFFFF, 0x0054, fun _ => .flashVerify⟩,
    ⟨0xFFFF, 0x0060, fun _ => .run⟩,
    ⟨0xFFFF, 0x0061, fun _ => .resetPinTest⟩,
    ⟨0xFFFF, 0x0070, fun _ => .tick⟩,
    ⟨0xFFFF, 0x0071, fun _ => .press⟩
  ]

/-- The 25 rows of R101. -/
def cmdRows : List CmdRow := cmdRowsLow ++ cmdRowsHigh

/-- The eight headers of R90. -/
def headerRowsDoc7 : List HeaderRow :=
  [
    ⟨0x41, .reqDoc7W0⟩,
    ⟨0x59, .reqDoc7W1⟩,
    ⟨0x55, .reqDoc7W2⟩,
    ⟨0x4D, .reqDoc7W3⟩,
    ⟨0x53, .reqDoc7R0⟩,
    ⟨0x4B, .reqDoc7R1⟩,
    ⟨0x47, .reqDoc7R2⟩,
    ⟨0x5F, .reqDoc7R3⟩
  ]

/-- The sixteen headers of R92. -/
def headerRowsAdiv5 : List HeaderRow :=
  [
    ⟨0x81, .reqAdiv5DpW0⟩,
    ⟨0xA9, .reqAdiv5DpW1⟩,
    ⟨0xB1, .reqAdiv5DpW2⟩,
    ⟨0x99, .reqAdiv5DpW3⟩,
    ⟨0xA5, .reqAdiv5DpR0⟩,
    ⟨0x8D, .reqAdiv5DpR1⟩,
    ⟨0x95, .reqAdiv5DpR2⟩,
    ⟨0xBD, .reqAdiv5DpR3⟩,
    ⟨0xA3, .reqAdiv5ApW0⟩,
    ⟨0x8B, .reqAdiv5ApW1⟩,
    ⟨0x93, .reqAdiv5ApW2⟩,
    ⟨0xBB, .reqAdiv5ApW3⟩,
    ⟨0x87, .reqAdiv5ApR0⟩,
    ⟨0xAF, .reqAdiv5ApR1⟩,
    ⟨0xB7, .reqAdiv5ApR2⟩,
    ⟨0x9F, .reqAdiv5ApR3⟩
  ]

/-- All request headers. -/
def headerRows : List HeaderRow := headerRowsDoc7 ++ headerRowsAdiv5

/-- Why a command word that matches no row is refused (R103). -/
def rejectReason (w : BitVec 16) : DecodeError :=
  if w.extractLsb' 12 4 ≠ 0 then .reservedBits
  else if cmdRows.any (fun r => r.pattern &&& 0x00FF == w &&& 0x00FF) then .unusedField
  else .reservedOp

/-- A command word's instruction: the row it matches (R102). -/
def decodeCmd (w : BitVec 16) : Except DecodeError Instr :=
  match cmdRows.find? (fun r => w &&& r.mask == r.pattern) with
  | some r => .ok (r.build w)
  | none => .error (rejectReason w)

/-- A request header's instruction. -/
def decodeHeader (w : BitVec 8) : Except DecodeError Instr :=
  match headerRows.find? (fun r => w == r.pattern) with
  | some r => .ok r.instr
  | none => .error .notAHeader

/-- The decoder. -/
def decode : Frame → Except DecodeError Instr
  | .cmd w => decodeCmd w
  | .header w => decodeHeader w

/-- The frame that the table's numbering of a row's bits stands for: a row of at most 8 bits is a request header, a
longer one a command word. -/
def frameOfTableWord (nbits w : Nat) : Frame :=
  if nbits ≤ 8 then .header (BitVec.ofNat 8 w) else .cmd (BitVec.ofNat 16 w)

/-- What the decoder reads from a row of spec/opcode_table.json whose bits are `w`. -/
def decodeTableWord (nbits w : Nat) : Option Instr :=
  match decode (frameOfTableWord nbits w) with
  | .ok i => some i
  | .error _ => none

/-- A bit at a position of a command word. -/
def bitAt (b : Bool) (n : Nat) : BitVec 16 := (BitVec.setWidth 16 (BitVec.ofBool b)) <<< n

/-- The encoder: the words of R101, the headers of R90 and R92. -/
def encode : Instr → Frame
  | .clkCycle => .cmd 0x0001
  | .writeBit b => .cmd (0x0002 ||| bitAt b 8)
  | .readBit => .cmd 0x0003
  | .writeWord => .cmd 0x0004
  | .readWord => .cmd 0x0005
  | .hwResetPulse => .cmd 0x0010
  | .lineReset => .cmd 0x0011
  | .jtagToSwd => .cmd 0x0012
  | .linkInit => .cmd 0x0013
  | .xfer port rnw a =>
    .cmd (0x0020 ||| bitAt rnw 8 ||| bitAt (a.getLsbD 0) 9 ||| bitAt (a.getLsbD 1) 10 ||| bitAt (bitOfPort port) 11)
  | .powerUp => .cmd 0x0030
  | .apConfig => .cmd 0x0031
  | .cpuHalt => .cmd 0x0032
  | .cpuReset => .cmd 0x0033
  | .memRead => .cmd 0x0040
  | .memWrite => .cmd 0x0041
  | .flashErase => .cmd 0x0050
  | .massErase => .cmd 0x0051
  | .pageErase => .cmd 0x0052
  | .flashWrite => .cmd 0x0053
  | .flashVerify => .cmd 0x0054
  | .run => .cmd 0x0060
  | .resetPinTest => .cmd 0x0061
  | .tick => .cmd 0x0070
  | .press => .cmd 0x0071
  | .reqDoc7W0 => .header 0x41
  | .reqDoc7W1 => .header 0x59
  | .reqDoc7W2 => .header 0x55
  | .reqDoc7W3 => .header 0x4D
  | .reqDoc7R0 => .header 0x53
  | .reqDoc7R1 => .header 0x4B
  | .reqDoc7R2 => .header 0x47
  | .reqDoc7R3 => .header 0x5F
  | .reqAdiv5DpW0 => .header 0x81
  | .reqAdiv5DpW1 => .header 0xA9
  | .reqAdiv5DpW2 => .header 0xB1
  | .reqAdiv5DpW3 => .header 0x99
  | .reqAdiv5DpR0 => .header 0xA5
  | .reqAdiv5DpR1 => .header 0x8D
  | .reqAdiv5DpR2 => .header 0x95
  | .reqAdiv5DpR3 => .header 0xBD
  | .reqAdiv5ApW0 => .header 0xA3
  | .reqAdiv5ApW1 => .header 0x8B
  | .reqAdiv5ApW2 => .header 0x93
  | .reqAdiv5ApW3 => .header 0xBB
  | .reqAdiv5ApR0 => .header 0x87
  | .reqAdiv5ApR1 => .header 0xAF
  | .reqAdiv5ApR2 => .header 0xB7
  | .reqAdiv5ApR3 => .header 0x9F

end Sys2Proof
end

