-- ==== Sys2Proof/Machine/Params.lean ====
section
/-!
DEFINITION. The reference parameter values of spec 00_scope.md R8, and the constraints a parameter set must meet
(60_exceptions.md R345).
-/

namespace Sys2Proof

/-- The reference values of 00_scope.md R8; each value R8 leaves OPEN is a free constant (log 14). -/
def Params.reference : Params where
  reqFormat := .doc7
  readTrn := 1
  wdataParity := .zero
  rdataParity := .ignore
  waitRetries := 0
  ackOk := 0b001
  ackWait := 0b010
  ackFault := 0b100
  nLrHigh := 50
  nIdle := 8
  jtagToSwd := 0xE79E
  tHalfUs := Config.tHalfUs
  tRstHoldUs := 1000
  tRstBootUs := 100
  nPoll := 100
  tPollUs := 1000
  pwrReq := 0x50000000
  pwrAckMask := 0xA0000000
  idcodeM34 := 0x2BA01477
  idcodeM0p := 0x0BC11477
  selIdrBank := 0x000000F0
  selBank0 := 0x00000000
  idrLocked := 0x16E60001
  idrFamilyA := 0x24770011
  idrFamilyB := 0x04770031
  cswValue := 0x23000012
  dhcsrAddr := 0xE000EDF0
  dhcsrHalt := 0xA05F0003
  demcrAddr := 0xE000EDFC
  demcrVc := 0x00000001
  aircrAddr := 0xE000ED0C
  aircrReset := 0x05FA0004
  flashBase := 0x00000000
  mscBase := 0x400E0000
  pageSize := 2048
  offWritectrl := 0x008
  offWritecmd := 0x00C
  offAddrb := 0x010
  offWdata := 0x018
  mscWren := 0x00000001
  cmdLaddrim := 0x001
  cmdErasepage := 0x002
  cmdWritetrig := 0x010
  cmdErasemain := 0x100
  massThreshold := 65536
  tPageSettleUs := Config.tPageSettleUs
  tMassSettleUs := Config.tMassSettleUs
  tWordSettleUs := Config.tWordSettleUs
  verifyMaxErr := 10
  progressStride := 1000
  pEraseEnd := 30
  pWriteEnd := 80
  pVerifyEnd := 100
  ledInitializingMs := 500
  ledProgrammingMs := 200
  ledVerifyingMs := 300
  ledErrorMs := 100
  doubleClickMs := 500
  rstTestCycles := 5
  rstTestLowMs := 10
  rstTestHighMs := 10

/-- `STATUS_TEXT`: the text of a notification, fewer than 64 characters (45_status_orchestrator.md R293,
92_eei_decisions.md D48). Every function that meets the bound is this one for some `Config.statusText` (log 14). -/
def statusMessage (n : Note) : String := String.ofList ((Config.statusText n).toList.take 63)

/-- The constraints of 60_exceptions.md R345, one Bool each, in its order. -/
def Params.checks (p : Params) : List Bool :=
  [decide (50 ≤ p.nLrHigh),
   decide (1000 ≤ p.tRstHoldUs),
   decide (100 ≤ p.tRstBootUs),
   decide (p.pageSize ≠ 0),
   decide (p.ackOk ≠ p.ackWait ∧ p.ackOk ≠ p.ackFault ∧ p.ackWait ≠ p.ackFault),
   decide (p.pEraseEnd ≤ p.pWriteEnd ∧ p.pWriteEnd ≤ p.pVerifyEnd ∧ p.pVerifyEnd ≤ 100)]

/-- The parameter set meets every constraint; a block with any other set is not instantiated (70_reset_and_hazards.md
R372). -/
def Params.valid (p : Params) : Bool := p.checks.all id

end Sys2Proof
end

