-- ==== Sys2Proof/Machine/State.lean ====
section
/-!
DEFINITION. The state of the SWD probe engine as plain data: its lines, registers, session record, run bookkeeping
and command interface (spec 10_state.md), with what the spec calls arguments of the step (the parameters, the host's
writes, the target's answers); the state after reset; why a step can stop.
-/

namespace Sys2Proof.Machine

/-- The error kinds of 60_exceptions.md R330. -/
inductive ErrorKind where
  | linkInitFailure | powerUpTimeout | apConfigFailure | debugLocked
  | haltFailure | eraseFailure | writeFailure | verifyFailure
  deriving DecidableEq, Repr

/-- `RES_KIND` (10_state.md R41). -/
inductive ResKind where
  | ok | refused | nack
  | error (e : ErrorKind)
  deriving DecidableEq, Repr

/-- `S.core`: the detected core family (10_state.md R32). -/
inductive CoreFamily where
  | m34 | m0p | unknown
  deriving DecidableEq, Repr

/-- The session record `S` (10_state.md R32). A field that no rule has written yet is `none`: reading it is a model
fault (60_exceptions.md R345). -/
structure Session where
  core : Option CoreFamily
  idcode : Option Word
  apIdr : Option Word
  mscBase : Option Word
  pageSize : Option Word
  gen2 : Bool
  deriving DecidableEq, Repr

/-- A session as it is created: every field unwritten except `gen2 = 0` (10_state.md R32). -/
def Session.fresh : Session where
  core := none
  idcode := none
  apIdr := none
  mscBase := none
  pageSize := none
  gen2 := false

/-- The reference target of 20_memory.md R80, a premise of the test vectors and no part of the block (log 5).
`mem` is its map `M` in canonical form: addresses strictly rising, no entry equal to what an unlisted address reads
as. `inject` holds the ACKs a vector injects into the next transactions; with none left every ACK is `ACK_OK`. -/
structure RefTarget where
  idcode : Word
  ctrlstat : Word
  select : Word
  csw : Word
  tar : Word
  idr : Word
  mem : List (Nat × Word)
  wren : Bool
  addrb : Word
  wdata : Word
  latched : Word
  flashSize : Nat
  inject : List (BitVec 3)
  deriving DecidableEq, Repr

/-- The model faults of 60_exceptions.md R345 that a command can meet. A fault is recorded in `State.faults` and the
machine goes on: it "is never final and never cleared". -/
inductive Fault where
  /-- Recorded by `FLASH_WRITE`, `FLASH_VERIFY`, `RUN`, and a `TICK` or `PRESS` that starts a run, when they read an
  `IMAGE` byte past those the host supplied. No step stops with it: the byte is a free value and the command goes on.
  Safe (log 11). -/
  | imageShort
  /-- Recorded by the observation of a session field that no rule has written (`readSession`); no command makes one. No
  step stops with it. Safe (log 13). -/
  | sessionUnwritten
  deriving DecidableEq, Repr

/-- One write of the host: the frame to run, with the operand registers it writes beside it; `none` leaves a register
as it is (10_state.md R41, log 3). -/
structure HostWrite where
  frame : Frame
  addr : Option Word := none
  data : Option Word := none
  len : Option Word := none
  image : Option (List Byte) := none
  deriving DecidableEq, Repr

/-- The machine's state. -/
structure State where
  /-- The parameters (00_scope.md R8); fixed, no step changes them (log 1). -/
  cfg : Params
  /-- SWCLK (10_state.md R20). -/
  swclk : Bool
  /-- `REG.dio_dir` (R21). -/
  dioDir : Dir
  /-- `REG.dio_out` (R21). -/
  dioOut : Bool
  /-- nRESET (R22). -/
  nreset : Bool
  /-- LED (R23). -/
  led : Bool
  /-- `REG.cmd`: the command being executed, or `NONE` (R26, log 21). -/
  cmd : Option Instr
  /-- `REG.step`: pin events issued since the command began (R26). -/
  stepCount : Nat
  /-- `REG.ack` (R27). -/
  ack : BitVec 3
  /-- `REG.rdata` (R28). -/
  rdata : Word
  /-- `REG.rparity` (R29). -/
  rparity : Bool
  /-- `REG.req_parity` (R30). -/
  reqParity : Bool
  /-- `REG.time_us` (R31). -/
  timeUs : Nat
  /-- The session record `S`, or absent (R32). -/
  session : Option Session
  /-- `REG.status` (R34). -/
  status : Status
  /-- `REG.progress` (R35). -/
  progress : Nat
  /-- `REG.run_active` (R36). -/
  runActive : Bool
  /-- `REG.err_count` (R37). -/
  errCount : Nat
  /-- `REG.index` (R37). -/
  index : Nat
  /-- `EV`, newest event first (R38, log 20). -/
  evRev : List PinEvent
  /-- `NOTE`, oldest entry first (R45). -/
  note : List Note
  /-- `REG.led_last_ms` (R39). -/
  ledLastMs : Nat
  /-- `REG.press_pending` (R40). -/
  pressPending : Bool
  /-- `REG.press_ms` (R40). -/
  pressMs : Nat
  /-- `REG.last_error`, or `NONE` (R42). -/
  lastError : Option ErrorKind
  /-- `CMD` (R41). -/
  cmdWord : BitVec 16
  /-- `ARG_ADDR` (R41). -/
  argAddr : Word
  /-- `ARG_DATA` (R41). -/
  argData : Word
  /-- `ARG_LEN` (R41). -/
  argLen : Word
  /-- `IMAGE` (R41, 20_memory.md R68). -/
  image : List Byte
  /-- `RES_KIND` (R41). -/
  resKind : ResKind
  /-- `RES_DATA` (R41). -/
  resData : Word
  /-- `RES_ACK` (R41). -/
  resAck : BitVec 3
  /-- The model faults recorded, the first one first, none twice; never cleared (60_exceptions.md R345, log 11). -/
  faults : List Fault
  /-- The host's pending writes, the next one first (log 3). -/
  host : List HostWrite
  /-- The target's next answers, the next one first; with none left a sample is `Config.oracle` of `EV` (log 4). -/
  answers : List Bool
  /-- The reference target, where one is attached (20_memory.md R80, log 5). -/
  target : Option RefTarget
  /-- How many free counter values have been drawn (log 9). -/
  freeDraws : Nat
  deriving DecidableEq, Repr

/-- The event history `EV` in the order of the events (10_state.md R38). -/
def State.ev (s : State) : List PinEvent := s.evRev.reverse

/-- The messages handed to the notification sink: the text of each `NOTE` entry (45_status_orchestrator.md R293). -/
def State.messages (s : State) : List String := s.note.map statusMessage

/-- The machine right after reset (10_state.md R43, 70_reset_and_hazards.md R370). A register that R43 leaves
unspecified holds 0 (log 8); the host has written nothing, the target has no scripted answer and no reference target
is attached (logs 3, 4, 5). -/
def State.reset : State where
  cfg := Params.reference
  swclk := true
  dioDir := .output
  dioOut := false
  nreset := true
  led := false
  cmd := none
  stepCount := 0
  ack := 0
  rdata := 0
  rparity := false
  reqParity := false
  timeUs := 0
  session := none
  status := .idle
  progress := 0
  runActive := false
  errCount := 0
  index := 0
  evRev := []
  note := []
  ledLastMs := 0
  pressPending := false
  pressMs := 0
  lastError := none
  cmdWord := 0
  argAddr := 0
  argData := 0
  argLen := 0
  image := []
  resKind := .ok
  resData := 0
  resAck := 0
  faults := []
  host := []
  answers := []
  target := none
  freeDraws := 0

/-- How a command that can fail ends: with success, or by raising an error kind (00_scope.md R14). -/
inductive Res where
  | ok (s : State)
  | raised (e : ErrorKind) (s : State)
  deriving DecidableEq, Repr

/-- Why the model gives a step no meaning. -/
inductive Refusal where
  /-- Raised by `exec`'s arm of an instruction that has no meaning in this model. Safe: nothing can be proved of it. -/
  | notModelled (mnemonic : String)
  /-- Raised by `step` when the parameter set breaks a constraint: such a block is never instantiated
  (60_exceptions.md R345, 93_implementation_defined.md I14). Safe (log 24). -/
  | badConfig
  deriving DecidableEq, Repr

end Sys2Proof.Machine
end

