-- ==== Sys2Proof/Machine/Operands.lean ====
section
/-!
DEFINITION. The operand forms: bits of a value in wire order, a value from bits in wire order, the request header's
bits, image words, and the address and count arithmetic of the flash commands.
-/

namespace Sys2Proof.Machine

/-- The low `n` bits of a natural, least-significant first (00_scope.md R17). -/
def bitsOfNat (n v : Nat) : List Bool := (List.range n).map v.testBit

/-- The bits of a bit vector in wire order: least-significant first (20_memory.md R69). -/
def bitsOf {n : Nat} (v : BitVec n) : List Bool := bitsOfNat n v.toNat

/-- The natural whose bits, least-significant first, are the list. -/
def natOfBits : List Bool → Nat
  | [] => 0
  | b :: bs => b.toNat + 2 * natOfBits bs

/-- The `n`-bit value whose bits came in wire order: the first is bit 0 (40_transport.md R124, 30_encoding.md R93). -/
def ofBits (n : Nat) (bs : List Bool) : BitVec n := BitVec.ofNat n (natOfBits bs)

/-- Exclusive or of a list of bits. -/
def xorBits : List Bool → Bool := List.foldl (· ^^ ·) false

/-- The even parity of a data word: the exclusive or of its 32 bits (30_encoding.md R95). -/
def evenParity (w : Word) : Bool := xorBits (bitsOf w)

/-- The request parity (30_encoding.md R91). The `port` enters it only in the ADIV5 format. -/
def requestParity (f : ReqFormat) (port : Port) (rnw : Bool) (a : BitVec 2) : Bool :=
  match f with
  | .doc7 => rnw ^^ a.getLsbD 1 ^^ a.getLsbD 0
  | .adiv5 => bitOfPort port ^^ rnw ^^ a.getLsbD 0 ^^ a.getLsbD 1

/-- The request header's bits in the order they are sent (30_encoding.md R90, R92). -/
def headerBits (f : ReqFormat) (port : Port) (rnw : Bool) (a : BitVec 2) : List Bool :=
  let p := requestParity f port rnw a
  match f with
  | .doc7 => [true, rnw, a.getLsbD 1, a.getLsbD 0, p, false, true]
  | .adiv5 => [true, bitOfPort port, rnw, a.getLsbD 0, a.getLsbD 1, p, false, true]

/-- `ceil(a / b)` for naturals (00_scope.md R10). -/
def ceilDiv (a b : Nat) : Nat := (a + b - 1) / b

/-- Image byte `j`: `0xFF` from `len` on (44_flash.md R250), and `missing j` where the host supplied no such byte. -/
def imageByte (missing : Nat → Byte) (image : List Byte) (len j : Nat) : Byte :=
  if j < len then image.getD j (missing j) else 0xFF

/-- Image word `k`, little-endian, padded with `0xFF` (20_memory.md R70, 44_flash.md R250). -/
def assembleWord (missing : Nat → Byte) (image : List Byte) (len k : Nat) : Word :=
  imageByte missing image len (4 * k + 3) ++ imageByte missing image len (4 * k + 2)
    ++ imageByte missing image len (4 * k + 1) ++ imageByte missing image len (4 * k)

/-- `WordOf(k)` of an image that the host supplied whole (R250). -/
def wordOf (image : List Byte) (len k : Nat) : Word := assembleWord (fun _ => 0xFF) image len k

/-- Assembling image word `k` reads a byte below `len` that the host did not supply (60_exceptions.md R345). -/
def readsPastImage (image : List Byte) (len k : Nat) : Bool :=
  [4 * k, 4 * k + 1, 4 * k + 2, 4 * k + 3].any fun j => decide (j < len) && decide (image.length ≤ j)

/-- How many 32-bit words an image of `len` bytes has (44_flash.md R251). -/
def wordCount (len : Word) : Nat := ceilDiv len.toNat 4

/-- The target address of image word `k`, reduced mod 2^32 (20_memory.md R73). -/
def wordAddr (base : Word) (k : Nat) : Word := base + BitVec.ofNat 32 (4 * k)

/-- How many pages the erase of `len` bytes takes (44_flash.md R243). -/
def pageCount (cfg : Params) (len : Word) : Nat := ceilDiv len.toNat cfg.pageSize.toNat

/-- The address of page `i`, reduced mod 2^32 and not rounded to a page boundary (44_flash.md R243). -/
def pageAddr (cfg : Params) (base : Word) (i : Nat) : Word := base + BitVec.ofNat 32 (i * cfg.pageSize.toNat)

/-- The mass-erase test: from the flash base exactly, and strictly more than the threshold (44_flash.md R243). -/
def wantsMassErase (cfg : Params) (base len : Word) : Bool :=
  decide (base = cfg.flashBase) && decide (cfg.massThreshold.toNat < len.toNat)

/-! ### Addresses of the flash controller's registers (20_memory.md R65). -/

/-- `WRITECTRL`. -/
def mscWritectrl (cfg : Params) : Word := cfg.mscBase + cfg.offWritectrl
/-- `WRITECMD`. -/
def mscWritecmd (cfg : Params) : Word := cfg.mscBase + cfg.offWritecmd
/-- `ADDRB`. -/
def mscAddrb (cfg : Params) : Word := cfg.mscBase + cfg.offAddrb
/-- `WDATA`. -/
def mscWdata (cfg : Params) : Word := cfg.mscBase + cfg.offWdata

end Sys2Proof.Machine
end

