-- ==== Sys2Proof/Machine/Flags.lean ====
section
/-!
DEFINITION. The tests the rules make on flag-like state (spec 10_state.md R44): the ACK's class, a transaction's
success, the outgoing data parity, the power-up acknowledges, the LED mode, the time windows and the error codes.
-/

namespace Sys2Proof.Machine

/-- The classes of an ACK (30_encoding.md R94). -/
inductive AckClass where
  | success | wait | fault | protocol
  deriving DecidableEq, Repr

/-- The class of an ACK (30_encoding.md R94). -/
def ackClass (cfg : Params) (a : BitVec 3) : AckClass :=
  if a = cfg.ackOk then .success
  else if a = cfg.ackWait then .wait
  else if a = cfg.ackFault then .fault
  else .protocol

/-- Whether the transaction that left this state succeeded (41_transaction.md R143). -/
def xferOk (rnw : Bool) (s : State) : Bool :=
  s.ack == s.cfg.ackOk &&
    !(s.cfg.rdataParity == .check && rnw && s.rparity != evenParity s.rdata)

/-- The outgoing data parity `wp` (41_transaction.md R144). -/
def writeParity (cfg : Params) (w : Word) : Bool :=
  match cfg.wdataParity with
  | .zero => false
  | .even => evenParity w

/-- Both power-up acknowledges are set (20_memory.md R67). -/
def poweredUp (cfg : Params) (v : Word) : Bool := v &&& cfg.pwrAckMask == cfg.pwrAckMask

/-- `LedMode` (45_status_orchestrator.md R295): off, on, or toggling with a period in ms. -/
inductive LedMode where
  | off | on
  | toggle (ms : Nat)
  deriving DecidableEq, Repr

/-- The LED table of 45_status_orchestrator.md R296. -/
def ledMode (cfg : Params) : Status → LedMode
  | .idle => .off
  | .initializing => .toggle cfg.ledInitializingMs
  | .programming => .toggle cfg.ledProgrammingMs
  | .verifying => .toggle cfg.ledVerifyingMs
  | .success => .on
  | .error => .toggle cfg.ledErrorMs

/-- A second press at `t` falls within the window of the pending one (45_status_orchestrator.md R310). Subtraction
of timestamps is truncated (00_scope.md R10). -/
def isDoublePress (t : Nat) (s : State) : Bool := s.pressPending && decide (t - s.pressMs < s.cfg.doubleClickMs)

/-- The pending press's window has passed at `now` (45_status_orchestrator.md R311). -/
def windowPassed (now : Nat) (s : State) : Bool := s.pressPending && decide (s.cfg.doubleClickMs ≤ now - s.pressMs)

/-- Word `k`, counted from 0, is one after which progress is reported (44_flash.md R251, R260). With
`PROGRESS_STRIDE = 0` the test has no value (log 15). -/
def isProgressWord (cfg : Params) (k : Nat) : Bool :=
  if cfg.progressStride = 0 then Config.strideZeroHit k else (k + 1) % cfg.progressStride == 0

/-! ### Error codes (60_exceptions.md R330, 92_eei_decisions.md D33). -/

/-- The numeric code of an error kind. -/
def errorCode : ErrorKind → Nat
  | .linkInitFailure => 1
  | .powerUpTimeout => 2
  | .apConfigFailure => 3
  | .debugLocked => 4
  | .haltFailure => 5
  | .eraseFailure => 6
  | .writeFailure => 7
  | .verifyFailure => 8

/-- The kind as the source groups it: `DebugLocked`, code 4, is a case of `ApConfigFailure`, code 3. -/
def sourceKind : ErrorKind → ErrorKind
  | .debugLocked => .apConfigFailure
  | e => e

/-- `REG.last_error` as its code, or `NONE` (10_state.md R42). -/
def lastErrorCode (s : State) : Option Nat := s.lastError.map errorCode

/-- The code of the error kind in `RES_KIND`; `OK`, `REFUSED` and `NACK` are no error kinds (60_exceptions.md R332). -/
def resErrorCode (s : State) : Option Nat :=
  match s.resKind with
  | .error e => some (errorCode e)
  | .ok | .refused | .nack => none

end Sys2Proof.Machine
end

