-- ==== Sys2Proof/Machine/RefTarget.lean ====
section
/-!
DEFINITION. The reference target of spec 20_memory.md R80: a premise of the test vectors, no part of the block. It
answers whole transactions and sees the port tag. What R80 leaves unsaid is left to the oracle or has no effect
(log 5).
-/

namespace Sys2Proof.Machine

/-! ### The map `M` from word address to word, as a canonical list. -/

/-- Read one word: the entry, or what an unlisted address reads as. -/
def Memory.get (dflt : Nat → Word) : List (Nat × Word) → Nat → Word
  | [], a => dflt a
  | (b, w) :: m, a => if a = b then w else Memory.get dflt m a

/-- Write one word, keeping addresses rising and dropping an entry equal to what an unlisted address reads as. -/
def Memory.put (dflt : Nat → Word) : List (Nat × Word) → Nat → Word → List (Nat × Word)
  | [], a, v => if v = dflt a then [] else [(a, v)]
  | (b, w) :: m, a, v =>
    if a < b then (if v = dflt a then (b, w) :: m else (a, v) :: (b, w) :: m)
    else if a = b then (if v = dflt a then m else (a, v) :: m)
    else (b, w) :: Memory.put dflt m a v

/-- Write the same word at each of some addresses. -/
def Memory.fill (dflt : Nat → Word) (m : List (Nat × Word)) (v : Word) : List Nat → List (Nat × Word)
  | [] => m
  | a :: as => Memory.fill dflt (Memory.put dflt m a v) v as

/-- Canonical form: addresses strictly rising, no entry equal to what an unlisted address reads as. -/
def Memory.wf (dflt : Nat → Word) : List (Nat × Word) → Bool
  | [] => true
  | (a, w) :: m => decide (w ≠ dflt a) && m.all (fun c => decide (a < c.1)) && Memory.wf dflt m

/-! ### The target. -/

/-- The address lies in the reference target's flash: `[FLASH_BASE, FLASH_BASE + REF_FLASH_SIZE)`. -/
def inFlash (cfg : Params) (size a : Nat) : Bool :=
  decide (cfg.flashBase.toNat ≤ a) && decide (a < cfg.flashBase.toNat + size)

/-- What a word never written reads as: `0xFFFFFFFF` in flash, 0 elsewhere. -/
def unlisted (cfg : Params) (size : Nat) : Nat → Word :=
  fun a => if inFlash cfg size a then 0xFFFFFFFF else 0

/-- `M[a]`. -/
def RefTarget.load (cfg : Params) (r : RefTarget) (a : Word) : Word :=
  Memory.get (unlisted cfg r.flashSize) r.mem a.toNat

/-- `M[a] <- v`. -/
def RefTarget.store (cfg : Params) (r : RefTarget) (a v : Word) : RefTarget :=
  { r with mem := Memory.put (unlisted cfg r.flashSize) r.mem a.toNat v }

/-- The word addresses of the page that holds `a`. -/
def pageWords (cfg : Params) (a : Word) : List Nat :=
  (List.range (ceilDiv cfg.pageSize.toNat 4)).map fun i =>
    (a.toNat - a.toNat % cfg.pageSize.toNat + 4 * i) % 2 ^ 32

/-- Every word of the page that holds `a` becomes `0xFFFFFFFF`. -/
def RefTarget.erasePage (cfg : Params) (r : RefTarget) (a : Word) : RefTarget :=
  { r with mem := Memory.fill (unlisted cfg r.flashSize) r.mem 0xFFFFFFFF (pageWords cfg a) }

/-- Every flash word becomes `0xFFFFFFFF`: no flash address is listed. -/
def RefTarget.eraseMain (cfg : Params) (r : RefTarget) : RefTarget :=
  { r with mem := r.mem.filter fun c => !inFlash cfg r.flashSize c.1 }

/-- The effect of a WRITECMD value. Where two of the four values coincide R80 gives no order, and the first of LADDRIM,
ERASEPAGE, ERASEMAIN, WRITETRIG is the one that acts: the model's choice (log 5). -/
def RefTarget.command (cfg : Params) (r : RefTarget) (v : Word) : RefTarget :=
  if v = cfg.cmdLaddrim then { r with latched := r.addrb }
  else if v = cfg.cmdErasepage then (if r.wren then r.erasePage cfg r.latched else r)
  else if v = cfg.cmdErasemain then (if r.wren then r.eraseMain cfg else r)
  else if v = cfg.cmdWritetrig then (if r.wren then r.store cfg r.latched r.wdata else r)
  else r

/-- The flash controller's effect of a word written to address `a`. Where two of its register addresses coincide R80 gives
no order, and the first of WRITECTRL, ADDRB, WDATA, WRITECMD is the one that acts: the model's choice (log 5). -/
def RefTarget.mscEffect (cfg : Params) (r : RefTarget) (a v : Word) : RefTarget :=
  if a = mscWritectrl cfg then { r with wren := v.getLsbD 0 }
  else if a = mscAddrb cfg then { r with addrb := v }
  else if a = mscWdata cfg then { r with wdata := v }
  else if a = mscWritecmd cfg then r.command cfg v
  else r

/-- A DP or AP write that the target acknowledges. A register R80 does not give is left alone (log 5). -/
def RefTarget.write (cfg : Params) (r : RefTarget) (port : Port) (a : BitVec 2) (v : Word) : RefTarget :=
  match port with
  | .dp => if a = 1 then { r with ctrlstat := v } else if a = 2 then { r with select := v } else r
  | .ap =>
    if a = 0 then { r with csw := v }
    else if a = 1 then { r with tar := v }
    else if a = 3 then (r.store cfg r.tar v).mscEffect cfg r.tar v
    else r

/-- The value a DP or AP read returns, where R80 gives one. -/
def RefTarget.read (cfg : Params) (r : RefTarget) (port : Port) (a : BitVec 2) : Option Word :=
  match port with
  | .dp =>
    if a = 0 then some r.idcode
    else if a = 1 then some (r.ctrlstat ||| ((r.ctrlstat &&& cfg.pwrReq) <<< 1))
    else none
  | .ap =>
    if a = 3 then some (if r.select.extractLsb' 4 4 = 0xF then r.idr else r.load cfg r.tar) else none

/-- The ACK of the next transaction: the injected one, or `ACK_OK`. -/
def RefTarget.nextAck (cfg : Params) (r : RefTarget) : BitVec 3 := r.inject.headD cfg.ackOk

/-- One transaction as the reference target sees it: the bits it drives into the block's samples (the ACK, then for a
read the word and its even parity, log 5), and what it becomes. A transaction it does not acknowledge with `ACK_OK`
has no effect on it. -/
def RefTarget.respond (cfg : Params) (r : RefTarget) (port : Port) (rnw : Bool) (a : BitVec 2) (v : Word) :
    List Bool × RefTarget :=
  let k := r.nextAck cfg
  let r := { r with inject := r.inject.tail }
  if k = cfg.ackOk then
    if rnw then
      match r.read cfg port a with
      | some w => (bitsOf k ++ bitsOf w ++ [evenParity w], r)
      | none => (bitsOf k, r)
    else (bitsOf k, r.write cfg port a v)
  else (bitsOf k, r)

end Sys2Proof.Machine
end

