-- ==== Sys2Proof/Machine/Ops.lean ====
section
/-!
DEFINITION. The named operations every rule is written with: the pin primitives (spec 00_scope.md R12), the target's
answer, status and progress, taking an error (60_exceptions.md R335), and the beginning and the end of a command.
-/

namespace Sys2Proof.Machine

/-! ### Pin primitives (00_scope.md R12): each appends one event to `EV` and adds one to `REG.step`. -/

/-- Append an event to `EV` and count it (10_state.md R26, R38). -/
def emit (e : PinEvent) (s : State) : State :=
  { s with evRev := e :: s.evRev, stepCount := s.stepCount + 1 }

/-- `SetClk(v)`. -/
def setClk (v : Bool) (s : State) : State := emit (.setClk v) { s with swclk := v }

/-- `SetDio(v)`. -/
def setDio (v : Bool) (s : State) : State := emit (.setDio v) { s with dioOut := v }

/-- `SetDir(d)`. -/
def setDir (d : Dir) (s : State) : State := emit (.setDir d) { s with dioDir := d }

/-- `SetRst(v)`. -/
def setRst (v : Bool) (s : State) : State := emit (.setRst v) { s with nreset := v }

/-- `Delay(us)`. -/
def delay (us : Nat) (s : State) : State := emit (.delay us) { s with timeUs := s.timeUs + us }

/-- The level the target answers to the next sample: its next scripted answer, or the oracle's draw from the event
history (20_memory.md R61, log 4). -/
def draw (s : State) : Bool := s.answers.headD (Config.oracle s.evRev)

/-- `SampleDio()`: the target's answer (log 22). -/
def sampleDio (s : State) : Bool × State :=
  (draw s, emit (.sampleDio (draw s)) { s with answers := s.answers.tail })

/-- The level the block drives on SWDIO, or `none` where it drives nothing (10_state.md R21). -/
def drivenLevel (s : State) : Option Bool :=
  match s.dioDir with
  | .output => some s.dioOut
  | .input => none

/-- What an attached reference target makes of the transaction the block is about to send: it takes its effect and
prepares its answers (20_memory.md R80, log 5). With none attached, nothing. -/
def targetSees (port : Port) (rnw : Bool) (a : BitVec 2) (v : Word) (s : State) : State :=
  match s.target with
  | none => s
  | some r =>
    { s with
      answers := (r.respond s.cfg port rnw a v).1
      target := some (r.respond s.cfg port rnw a v).2 }

/-! ### Status, progress and the session. -/

/-- `SetStatus(v)` (45_status_orchestrator.md R290). -/
def setStatus (v : Status) (s : State) : State :=
  { s with status := v, note := s.note ++ [.status v] }

/-- `SetProgress(p)`: a notification only where the value changes (44_flash.md R240). -/
def setProgress (p : Nat) (s : State) : State :=
  { s with progress := p, note := if p = s.progress then s.note else s.note ++ [.progress p] }

/-- A scratch session where none exists (60_exceptions.md R346, log 12). -/
def ensureSession (s : State) : State := { s with session := some (s.session.getD .fresh) }

/-- Write fields of the session. -/
def updateSession (f : Session → Session) (s : State) : State := { s with session := s.session.map f }

/-- Record a model fault, once (60_exceptions.md R345). -/
def recorded (f : Fault) (fs : List Fault) : List Fault := if f ∈ fs then fs else fs ++ [f]

/-- Observe a session field. One that no rule has written has no value, and observing it records a model fault
(60_exceptions.md R345, log 13). -/
def readSession {α : Type} (f : Session → Option α) (s : State) : Option α × State :=
  match s.session.bind f with
  | some v => (some v, s)
  | none => (none, { s with faults := recorded .sessionUnwritten s.faults })

/-- The image word `k` that a command reads: `WordOf(k)` (44_flash.md R250), a byte that the host did not supply being
a free value (60_exceptions.md R345, log 11). -/
def imageWord (len : Word) (k : Nat) (s : State) : Word :=
  assembleWord (Config.missingByte s.evRev) s.image len.toNat k

/-- Record that image word `k` was assembled: a byte below `len` that the host did not supply is a model fault
(60_exceptions.md R345, log 11). -/
def noteImageRead (len : Word) (k : Nat) (s : State) : State :=
  { s with faults := if readsPastImage s.image len.toNat k then recorded .imageShort s.faults else s.faults }

/-! ### Taking an error (60_exceptions.md R335): the shared error entry. -/

/-- Error entry. In a run (`inRun`) it is the abort of 45_status_orchestrator.md R301: status `Error` with its
notification, `REG.last_error`, `RES_KIND`, the run ends and the session is discarded. A standalone command reports
in `RES_KIND` alone. There is no return from it: the block is idle again (60_exceptions.md R337). -/
def takeError (inRun : Bool) (e : ErrorKind) (s : State) : State :=
  if inRun then
    { setStatus .error s with
      lastError := some e, resKind := .error e, runActive := false, session := none }
  else { s with resKind := .error e }

/-! ### Sequencing steps that can fail: the first raised kind ends the command (60_exceptions.md R333). -/

/-- Go on after success; a raised kind skips the rest. -/
def Res.andThen (r : Res) (f : State → Res) : Res :=
  match r with
  | .ok s => f s
  | .raised e s => .raised e s

/-- The state a command that can fail leaves when it is issued alone: `RES_KIND` is `OK` or the kind raised
(00_scope.md R14, 60_exceptions.md R335). -/
def report (r : Res) : State :=
  match r with
  | .ok s => { s with resKind := .ok }
  | .raised e s => takeError false e s

/-! ### The beginning and the end of a command (10_state.md R26, R37, R41, 70_reset_and_hazards.md R373). -/

/-- What the host writes: `CMD` (where the frame is a command word), the operand registers it names, and nothing else;
the write is taken from the pending ones (log 3). -/
def acceptHostWrite (h : HostWrite) (rest : List HostWrite) (s : State) : State :=
  { s with
    cmdWord := match h.frame with | .cmd w => w | .header _ => s.cmdWord
    argAddr := h.addr.getD s.argAddr
    argData := h.data.getD s.argData
    argLen := h.len.getD s.argLen
    image := h.image.getD s.image
    host := rest }

/-- `REG.err_count` and `REG.index` outside the flash commands: free values, the first kept in its range (10_state.md
R37, log 9). -/
def scrambleCounters (s : State) : State :=
  { s with
    errCount := Config.freeErrCount s.freeDraws % (s.cfg.verifyMaxErr + 2)
    index := Config.freeIndex s.freeDraws
    freeDraws := s.freeDraws + 1 }

/-- A command starts: `REG.cmd` holds it, `REG.step = 0` (10_state.md R26), and the flash counters are drawn anew (R37,
log 9). A header row starts as a command does, also one that is then refused: the model's choice, log 6. Only the
host's commands start so; one that another command calls does not: the model's choice, log 29. -/
def beginCommand (i : Instr) (s : State) : State :=
  { scrambleCounters s with cmd := some i, stepCount := 0 }

/-- `REG.index` is left for the reader of an erase or write failure (60_exceptions.md R330). -/
def leavesIndex (s : State) : Bool :=
  match s.resKind with
  | .error .eraseFailure | .error .writeFailure => true
  | _ => false

/-- `REG.err_count` is left for the reader of a verify failure (60_exceptions.md R330). -/
def leavesErrCount (s : State) : Bool := decide (s.resKind = .error .verifyFailure)

/-- A command ends: `REG.cmd <- NONE` (10_state.md R26), and a flash counter is unspecified again unless an error left
it for the reader (R37, log 9). -/
def endCommand (s : State) : State :=
  { scrambleCounters s with
    cmd := none
    errCount := if leavesErrCount s then s.errCount else (scrambleCounters s).errCount
    index := if leavesIndex s then s.index else (scrambleCounters s).index }

/-- A word that is no command: `RES_KIND <- REFUSED` and nothing else (30_encoding.md R103). -/
def refuseWord (s : State) : State := { s with resKind := .refused }

/-- The parameters with the `REQ_FORMAT` that a frame belongs to: a header whose bit 7 is 1 is an ADIV5 header, any
other a DOC7 header; a command word belongs to both (log 6). -/
def selectFormat (f : Frame) (cfg : Params) : Params :=
  match f with
  | .cmd _ => cfg
  | .header w => { cfg with reqFormat := if w.getLsbD 7 then .adiv5 else .doc7 }

/-- A next state with a change made to it; a stop stays a stop. -/
def mapNext (f : State → State) : Host.Outcome State Fault Refusal → Host.Outcome State Fault Refusal
  | .next s => .next (f s)
  | .fault r => .fault r
  | .refused r => .refused r

end Sys2Proof.Machine
end

