-- ==== Sys2Proof/Machine/Transport.lean ====
section
/-!
DEFINITION. The bit and word transport (spec 40_transport.md): the subroutines R120 to R126 and the meanings of
`CLK_CYCLE`, `WRITE_BIT`, `READ_BIT`, `WRITE_WORD` and `READ_WORD`.
-/

namespace Sys2Proof.Machine

/-! ### Subroutines. -/

/-- `Delay(T)`, the half period. -/
def halfDelay (s : State) : State := delay s.cfg.tHalfUs s

/-- `clock_cycle()` (R120). -/
def clockCycle (s : State) : State := halfDelay (setClk true (halfDelay (setClk false s)))

/-- `n` clock cycles. -/
def clockCycles : Nat → State → State
  | 0, s => s
  | n + 1, s => clockCycles n (clockCycle s)

/-- `write_bit(b)` (R121). -/
def writeBit (b : Bool) (s : State) : State := clockCycle (setDio b (setDir .output s))

/-- `write_bit` for each bit, first to last. -/
def writeBits : List Bool → State → State
  | [], s => s
  | b :: bs, s => writeBits bs (writeBit b s)

/-- `read_bit()` (R122): the sample is taken after the rising edge and before the second delay. -/
def readBit (s : State) : Bool × State :=
  let r := sampleDio (setClk true (halfDelay (setClk false (setDir .input s))))
  (r.1, halfDelay r.2)

/-- `read_bit` `n` times, the first sample first. -/
def readBits : Nat → State → List Bool × State
  | 0, s => ([], s)
  | n + 1, s =>
    let r := readBit s
    let rs := readBits n r.2
    (r.1 :: rs.1, rs.2)

/-- `write_word(w)` (R123). -/
def writeWord (w : Word) (s : State) : State := writeBits (bitsOf w) s

/-- `read_word()` (R124). -/
def readWord (s : State) : Word × State :=
  let r := readBits 32 s
  (ofBits 32 r.1, r.2)

/-- `drive(v, n)` (R126). -/
def drive (v : Bool) (n : Nat) (s : State) : State := clockCycles n (setDio v (setDir .output s))

/-- `idle(n)` (R125), the idle sequence of 30_encoding.md R99. -/
def idle (n : Nat) (s : State) : State := drive false n s

/-! ### Meanings. -/

/-- `CLK_CYCLE` (R120). -/
def execClkCycle (s : State) : Host.Outcome State Fault Refusal := .next (clockCycle s)

/-- `WRITE_BIT b` (R121). -/
def execWriteBit (b : Bool) (s : State) : Host.Outcome State Fault Refusal := .next (writeBit b s)

/-- `READ_BIT` (R122): the sample, zero-extended, in `RES_DATA`. -/
def execReadBit (s : State) : Host.Outcome State Fault Refusal :=
  .next { (readBit s).2 with resData := (BitVec.ofBool (readBit s).1).setWidth 32 }

/-- `WRITE_WORD` (R123) of `ARG_DATA`. -/
def execWriteWord (s : State) : Host.Outcome State Fault Refusal := .next (writeWord s.argData s)

/-- `READ_WORD` (R124): the word in `RES_DATA`. -/
def execReadWord (s : State) : Host.Outcome State Fault Refusal :=
  .next { (readWord s).2 with resData := (readWord s).1 }

end Sys2Proof.Machine
end

