-- ==== Sys2Proof/Machine/Transaction.lean ====
section
/-!
DEFINITION. The transaction engine (spec 41_transaction.md): the request phase, one attempt, the WAIT retries, the
named accessors, and the meaning of `XFER`.
-/

namespace Sys2Proof.Machine

/-- The request header: `REG.req_parity` is computed and the header's bits are sent, one `write_bit` each
(30_encoding.md R90 to R92). -/
def sendHeader (f : ReqFormat) (port : Port) (rnw : Bool) (a : BitVec 2) (s : State) : State :=
  writeBits (headerBits f port rnw a) { s with reqParity := requestParity f port rnw a }

/-- The request phase and turnaround 1 of an attempt (R140). -/
def requestPhase (port : Port) (rnw : Bool) (a : BitVec 2) (s : State) : State :=
  clockCycle (setDir .input (sendHeader s.cfg.reqFormat port rnw a (setDir .output s)))

/-- The ACK: three samples, the first is bit 0 (30_encoding.md R93). -/
def ackPhase (s : State) : State :=
  { (readBits 3 s).2 with ack := ofBits 3 (readBits 3 s).1 }

/-- The data phase of a read: the turnaround cycles, the word, its parity bit (R140, 30_encoding.md R95). -/
def readPhase (s : State) : State :=
  let r := readWord (clockCycles s.cfg.readTrn s)
  let p := readBit { r.2 with rdata := r.1 }
  { p.2 with rparity := p.1 }

/-- The data phase of a write: one turnaround, the word, `wp` (R140, R144). -/
def writePhase (v : Word) (s : State) : State :=
  writeBit (writeParity s.cfg v) (writeWord v (clockCycle s))

/-- The data phase: only after an ACK equal to `ACK_OK` (30_encoding.md R95). -/
def dataPhase (rnw : Bool) (v : Word) (s : State) : State :=
  if s.ack = s.cfg.ackOk then (if rnw then readPhase s else writePhase v s) else s

/-- The final turnaround and the idle cycles, on every outcome (R140). -/
def closePhase (s : State) : State := idle s.cfg.nIdle (clockCycle s)

/-- One attempt (R140). An attached reference target sees the transaction as it begins (log 5). -/
def attempt (port : Port) (rnw : Bool) (a : BitVec 2) (v : Word) (s : State) : State :=
  closePhase (dataPhase rnw v (ackPhase (requestPhase port rnw a (targetSees port rnw a v s))))

/-- Up to `n` further attempts while the ACK is WAIT (R142). -/
def retryWait (port : Port) (rnw : Bool) (a : BitVec 2) (v : Word) : Nat → State → State
  | 0, s => s
  | n + 1, s => if s.ack = s.cfg.ackWait then retryWait port rnw a v n (attempt port rnw a v s) else s

/-- `Xfer(port, rnw, a, wdata)` (R140, R142). Its results stand in the state: the ACK in `REG.ack`, the read word in
`REG.rdata`, success is `xferOk`. -/
def xfer (port : Port) (rnw : Bool) (a : BitVec 2) (v : Word) (s : State) : State :=
  retryWait port rnw a v s.cfg.waitRetries (attempt port rnw a v s)

/-! ### The named accessors (R147). -/

/-- `DPRead(a)`. -/
def dpRead (a : BitVec 2) (s : State) : State := xfer .dp true a 0 s
/-- `DPWrite(a, v)`. -/
def dpWrite (a : BitVec 2) (v : Word) (s : State) : State := xfer .dp false a v s
/-- `APRead(a)`. -/
def apRead (a : BitVec 2) (s : State) : State := xfer .ap true a 0 s
/-- `APWrite(a, v)`. -/
def apWrite (a : BitVec 2) (v : Word) (s : State) : State := xfer .ap false a v s

/-- Go on with what `f` makes of the state where the transaction that left it succeeded, else raise `e`
(60_exceptions.md R331). -/
def checkXfer (rnw : Bool) (e : ErrorKind) (s : State) : Res :=
  if xferOk rnw s then .ok s else .raised e s

/-! ### Meaning. -/

/-- The results of `XFER` (R140): `RES_ACK` always, `RES_DATA` on a read acknowledged with `ACK_OK`, `RES_KIND` `OK`
or `NACK`. -/
def xferResults (rnw : Bool) (t : State) : State :=
  { t with
    resAck := t.ack
    resData := if rnw && t.ack == t.cfg.ackOk then t.rdata else t.resData
    resKind := if xferOk rnw t then .ok else .nack }

/-- `XFER` (R140). -/
def execXfer (port : Port) (rnw : Bool) (a : BitVec 2) (s : State) : Host.Outcome State Fault Refusal :=
  .next (xferResults rnw (xfer port rnw a s.argData s))

end Sys2Proof.Machine
end

