-- ==== Sys2Proof/Machine/Headers.lean ====
section
/-!
DEFINITION. The request headers as instructions (spec 30_encoding.md R90 to R92): each sends its own header. A header
belongs to one `REQ_FORMAT`; a block configured for the other never sends it (log 6).
-/

namespace Sys2Proof.Machine

/-- Send one header of format `f`; in a block of the other format it is no request header, and the row is refused: it
changes `RES_KIND` alone (R90, R92, R103). The refusal is the model's choice, and so is that it comes after the row has
started as a command does (`beginCommand`), whose `REG.step` is then 0 and whose flash counters are drawn anew (log 6). -/
def headerFrame (f : ReqFormat) (port : Port) (rnw : Bool) (a : BitVec 2) (s : State) :
    Host.Outcome State Fault Refusal :=
  .next (if s.cfg.reqFormat = f then sendHeader f port rnw a s else refuseWord s)

/-- `REQ.DOC7.W.A0` (R90; the format carries no port). -/
def execReqDoc7W0 (s : State) : Host.Outcome State Fault Refusal :=
  headerFrame .doc7 .dp false 0 s

/-- `REQ.DOC7.W.A1` (R90; the format carries no port). -/
def execReqDoc7W1 (s : State) : Host.Outcome State Fault Refusal :=
  headerFrame .doc7 .dp false 1 s

/-- `REQ.DOC7.W.A2` (R90; the format carries no port). -/
def execReqDoc7W2 (s : State) : Host.Outcome State Fault Refusal :=
  headerFrame .doc7 .dp false 2 s

/-- `REQ.DOC7.W.A3` (R90; the format carries no port). -/
def execReqDoc7W3 (s : State) : Host.Outcome State Fault Refusal :=
  headerFrame .doc7 .dp false 3 s

/-- `REQ.DOC7.R.A0` (R90; the format carries no port). -/
def execReqDoc7R0 (s : State) : Host.Outcome State Fault Refusal :=
  headerFrame .doc7 .dp true 0 s

/-- `REQ.DOC7.R.A1` (R90; the format carries no port). -/
def execReqDoc7R1 (s : State) : Host.Outcome State Fault Refusal :=
  headerFrame .doc7 .dp true 1 s

/-- `REQ.DOC7.R.A2` (R90; the format carries no port). -/
def execReqDoc7R2 (s : State) : Host.Outcome State Fault Refusal :=
  headerFrame .doc7 .dp true 2 s

/-- `REQ.DOC7.R.A3` (R90; the format carries no port). -/
def execReqDoc7R3 (s : State) : Host.Outcome State Fault Refusal :=
  headerFrame .doc7 .dp true 3 s

/-- `REQ.ADIV5.DP.W.A0` (R92). -/
def execReqAdiv5DpW0 (s : State) : Host.Outcome State Fault Refusal :=
  headerFrame .adiv5 .dp false 0 s

/-- `REQ.ADIV5.DP.W.A1` (R92). -/
def execReqAdiv5DpW1 (s : State) : Host.Outcome State Fault Refusal :=
  headerFrame .adiv5 .dp false 1 s

/-- `REQ.ADIV5.DP.W.A2` (R92). -/
def execReqAdiv5DpW2 (s : State) : Host.Outcome State Fault Refusal :=
  headerFrame .adiv5 .dp false 2 s

/-- `REQ.ADIV5.DP.W.A3` (R92). -/
def execReqAdiv5DpW3 (s : State) : Host.Outcome State Fault Refusal :=
  headerFrame .adiv5 .dp false 3 s

/-- `REQ.ADIV5.DP.R.A0` (R92). -/
def execReqAdiv5DpR0 (s : State) : Host.Outcome State Fault Refusal :=
  headerFrame .adiv5 .dp true 0 s

/-- `REQ.ADIV5.DP.R.A1` (R92). -/
def execReqAdiv5DpR1 (s : State) : Host.Outcome State Fault Refusal :=
  headerFrame .adiv5 .dp true 1 s

/-- `REQ.ADIV5.DP.R.A2` (R92). -/
def execReqAdiv5DpR2 (s : State) : Host.Outcome State Fault Refusal :=
  headerFrame .adiv5 .dp true 2 s

/-- `REQ.ADIV5.DP.R.A3` (R92). -/
def execReqAdiv5DpR3 (s : State) : Host.Outcome State Fault Refusal :=
  headerFrame .adiv5 .dp true 3 s

/-- `REQ.ADIV5.AP.W.A0` (R92). -/
def execReqAdiv5ApW0 (s : State) : Host.Outcome State Fault Refusal :=
  headerFrame .adiv5 .ap false 0 s

/-- `REQ.ADIV5.AP.W.A1` (R92). -/
def execReqAdiv5ApW1 (s : State) : Host.Outcome State Fault Refusal :=
  headerFrame .adiv5 .ap false 1 s

/-- `REQ.ADIV5.AP.W.A2` (R92). -/
def execReqAdiv5ApW2 (s : State) : Host.Outcome State Fault Refusal :=
  headerFrame .adiv5 .ap false 2 s

/-- `REQ.ADIV5.AP.W.A3` (R92). -/
def execReqAdiv5ApW3 (s : State) : Host.Outcome State Fault Refusal :=
  headerFrame .adiv5 .ap false 3 s

/-- `REQ.ADIV5.AP.R.A0` (R92). -/
def execReqAdiv5ApR0 (s : State) : Host.Outcome State Fault Refusal :=
  headerFrame .adiv5 .ap true 0 s

/-- `REQ.ADIV5.AP.R.A1` (R92). -/
def execReqAdiv5ApR1 (s : State) : Host.Outcome State Fault Refusal :=
  headerFrame .adiv5 .ap true 1 s

/-- `REQ.ADIV5.AP.R.A2` (R92). -/
def execReqAdiv5ApR2 (s : State) : Host.Outcome State Fault Refusal :=
  headerFrame .adiv5 .ap true 2 s

/-- `REQ.ADIV5.AP.R.A3` (R92). -/
def execReqAdiv5ApR3 (s : State) : Host.Outcome State Fault Refusal :=
  headerFrame .adiv5 .ap true 3 s

end Sys2Proof.Machine
end

