-- ==== Sys2Proof/Machine/MemAccess.lean ====
section
/-!
DEFINITION. Memory access (spec 43_memory_access.md): `MemRead` and `MemWrite`, the block's only load and store, and
the meanings of `MEM_READ` and `MEM_WRITE`.
-/

namespace Sys2Proof.Machine

/-- What `MemRead` gives: whether both transactions succeeded (seen by `MEM_READ` alone), the word, and the state. -/
structure MemReadResult where
  pass : Bool
  word : Word
  st : State

/-- The sentinel of a failed read (R220, R221). -/
def sentinel : Word := 0xFFFFFFFF

/-- `MemRead(addr, 4)` (R220): TAR, then DRW; a failed TAR write skips the DRW read. -/
def memRead (addr : Word) (s : State) : MemReadResult :=
  let s₁ := apWrite 1 addr s
  if xferOk false s₁ then
    let s₂ := apRead 3 s₁
    if xferOk true s₂ then ⟨true, s₂.rdata, s₂⟩ else ⟨false, sentinel, s₂⟩
  else ⟨false, sentinel, s₁⟩

/-- `MemWrite(addr, 4, data)` (R222): TAR, then DRW; a failed TAR write skips the DRW write. -/
def memWrite (addr data : Word) (s : State) : Bool × State :=
  let s₁ := apWrite 1 addr s
  if xferOk false s₁ then
    let s₂ := apWrite 3 data s₁
    (xferOk false s₂, s₂)
  else (false, s₁)

/-- A `MemWrite` whose failure raises `e` (60_exceptions.md R331). -/
def memWriteOr (e : ErrorKind) (addr data : Word) (s : State) : Res :=
  if (memWrite addr data s).1 then .ok (memWrite addr data s).2 else .raised e (memWrite addr data s).2

/-- `MEM_READ` (R220). -/
def execMemRead (s : State) : Host.Outcome State Fault Refusal :=
  let r := memRead s.argAddr s
  .next { r.st with resData := r.word, resKind := if r.pass then .ok else .nack }

/-- `MEM_WRITE` (R222). -/
def execMemWrite (s : State) : Host.Outcome State Fault Refusal :=
  let r := memWrite s.argAddr s.argData s
  .next { r.2 with resKind := if r.1 then .ok else .nack }

end Sys2Proof.Machine
end

