-- ==== Sys2Proof/Machine/Flash.lean ====
section
/-!
DEFINITION. The flash engine (spec 44_flash.md): erase, write and verify as steps of a run, and their meanings as
commands.
-/

namespace Sys2Proof.Machine

/-! ### Erase. -/

/-- `MASS_ERASE` as a step of a run (R241). -/
def massErase (s : State) : Res :=
  (memWriteOr .eraseFailure (mscWritectrl s.cfg) s.cfg.mscWren s).andThen fun s =>
  (memWriteOr .eraseFailure (mscWritecmd s.cfg) s.cfg.cmdErasemain s).andThen fun s =>
  .ok (delay s.cfg.tMassSettleUs s)

/-- `PAGE_ERASE` of the page at `pa` as a step of a run (R242). -/
def pageErase (pa : Word) (s : State) : Res :=
  (memWriteOr .eraseFailure (mscWritectrl s.cfg) s.cfg.mscWren s).andThen fun s =>
  (memWriteOr .eraseFailure (mscAddrb s.cfg) pa s).andThen fun s =>
  (memWriteOr .eraseFailure (mscWritecmd s.cfg) s.cfg.cmdLaddrim s).andThen fun s =>
  (memWriteOr .eraseFailure (mscWritecmd s.cfg) s.cfg.cmdErasepage s).andThen fun s =>
  .ok (delay s.cfg.tPageSettleUs s)

/-- The page loop of R243: `n` pages left, the next is page `i` of `pages`. -/
def erasePages (base : Word) (pages : Nat) : Nat → Nat → State → Res
  | 0, _, s => .ok s
  | n + 1, i, s =>
    (pageErase (pageAddr s.cfg base i) { s with index := i }).andThen fun s =>
    erasePages base pages n (i + 1) (setProgress (s.cfg.pEraseEnd * (i + 1) / pages) s)

/-- `FLASH_ERASE` as a step of a run (R243). The erases it calls are part of it (log 29). -/
def flashErase (base len : Word) (s : State) : Res :=
  (if wantsMassErase s.cfg base len then massErase s
   else erasePages base (pageCount s.cfg len) (pageCount s.cfg len) 0 s).andThen fun s =>
  .ok (setProgress s.cfg.pEraseEnd s)

/-! ### Write. -/

/-- The progress after word `k` of `n`, in the phase from `lo` to `hi` (R251, R260). -/
def wordProgress (lo hi n k : Nat) : Nat := lo + (hi - lo) * (k + 1) / n

/-- The progress update after word `k` (R251, R260): on every `PROGRESS_STRIDE`-th word. -/
def strideProgress (lo hi n k : Nat) (s : State) : State :=
  if isProgressWord s.cfg k then setProgress (wordProgress lo hi n k) s else s

/-- Program image word `k` (R251). -/
def writeImageWord (base len : Word) (k : Nat) (s : State) : Res :=
  (memWriteOr .writeFailure (mscAddrb s.cfg) (wordAddr base k) { s with index := k }).andThen fun s =>
  (memWriteOr .writeFailure (mscWritecmd s.cfg) s.cfg.cmdLaddrim s).andThen fun s =>
  (memWriteOr .writeFailure (mscWdata s.cfg) (imageWord len k s) (noteImageRead len k s)).andThen fun s =>
  (memWriteOr .writeFailure (mscWritecmd s.cfg) s.cfg.cmdWritetrig s).andThen fun s =>
  .ok (delay s.cfg.tWordSettleUs s)

/-- The word loop of R251: `m` words left, the next is word `k` of `n`. -/
def writeWords (base len : Word) (n : Nat) : Nat → Nat → State → Res
  | 0, _, s => .ok s
  | m + 1, k, s =>
    (writeImageWord base len k s).andThen fun s =>
    writeWords base len n m (k + 1) (strideProgress s.cfg.pEraseEnd s.cfg.pWriteEnd n k s)

/-- The start of a flash write (R251): its progress, and `REG.index` unspecified until the first word (10_state.md R37,
60_exceptions.md R330, log 9). -/
def startWrite (s : State) : State :=
  { setProgress s.cfg.pEraseEnd s with index := Config.freeWriteIndex s.freeDraws }

/-- `FLASH_WRITE` as a step of a run (R251). -/
def flashWrite (base len : Word) (s : State) : Res :=
  (memWriteOr .writeFailure (mscWritectrl s.cfg) s.cfg.mscWren (startWrite s)).andThen fun s =>
  (writeWords base len (wordCount len) (wordCount len) 0 s).andThen fun s =>
  .ok (setProgress s.cfg.pWriteEnd s)

/-! ### Verify. -/

/-- Compare image word `k` with the target's word `w` (R260): a mismatch is counted, and one more than
`VERIFY_MAX_ERR` ends the verify at once. -/
def compareWord (len : Word) (k : Nat) (w : Word) (s : State) : Res :=
  if w = imageWord len k s then .ok s
  else if s.cfg.verifyMaxErr < s.errCount + 1 then
    .raised .verifyFailure
      { s with errCount := s.errCount + 1, resData := BitVec.ofNat 32 (s.errCount + 1) }
  else .ok { s with errCount := s.errCount + 1 }

/-- Read back and compare image word `k`: the word alone is seen, a failed read is the sentinel (R260, R261). -/
def verifyImageWord (base len : Word) (k : Nat) (s : State) : Res :=
  let r := memRead (wordAddr base k) { s with index := k }
  compareWord len k r.word (noteImageRead len k r.st)

/-- The word loop of R260: `m` words left, the next is word `k` of `n`. -/
def verifyWords (base len : Word) (n : Nat) : Nat → Nat → State → Res
  | 0, _, s => .ok s
  | m + 1, k, s =>
    (verifyImageWord base len k s).andThen fun s =>
    verifyWords base len n m (k + 1) (strideProgress s.cfg.pWriteEnd s.cfg.pVerifyEnd n k s)

/-- The end of the verify (R260): zero mismatches is success, 1 to `VERIFY_MAX_ERR` a failure. -/
def verifyEnd (s : State) : Res :=
  let t := { s with resData := BitVec.ofNat 32 s.errCount }
  if s.errCount = 0 then .ok (setProgress s.cfg.pVerifyEnd t) else .raised .verifyFailure t

/-- `FLASH_VERIFY` as a step of a run (R260). -/
def flashVerify (base len : Word) (s : State) : Res :=
  (verifyWords base len (wordCount len) (wordCount len) 0
    (setProgress s.cfg.pWriteEnd { s with errCount := 0 })).andThen verifyEnd

/-! ### Meanings. -/

/-- `FLASH_ERASE` (R243) of the region `ARG_ADDR`, `ARG_LEN`. -/
def execFlashErase (s : State) : Host.Outcome State Fault Refusal := .next (report (flashErase s.argAddr s.argLen s))

/-- `MASS_ERASE` (R241). -/
def execMassErase (s : State) : Host.Outcome State Fault Refusal := .next (report (massErase s))

/-- `PAGE_ERASE` (R242) of the page at `ARG_ADDR`. -/
def execPageErase (s : State) : Host.Outcome State Fault Refusal := .next (report (pageErase s.argAddr s))

/-- `FLASH_WRITE` (R251). -/
def execFlashWrite (s : State) : Host.Outcome State Fault Refusal := .next (report (flashWrite s.argAddr s.argLen s))

/-- `FLASH_VERIFY` (R260). -/
def execFlashVerify (s : State) : Host.Outcome State Fault Refusal := .next (report (flashVerify s.argAddr s.argLen s))

end Sys2Proof.Machine
end

