-- ==== Sys2Proof/Machine/Link.lean ====
section
/-!
DEFINITION. Link initialisation, power-up, AP configuration and CPU control (spec 42_link_power_ap_cpu.md): the
component steps the orchestrator runs, and their meanings as commands.
-/

namespace Sys2Proof.Machine

/-! ### Link initializer. -/

/-- The hardware reset pulse (R170). -/
def hwResetPulse (s : State) : State :=
  delay s.cfg.tRstBootUs (setRst true (delay s.cfg.tRstHoldUs (setRst false s)))

/-- The line reset (R171, 30_encoding.md R97). -/
def lineReset (s : State) : State := idle s.cfg.nIdle (drive true s.cfg.nLrHigh s)

/-- The switch sequence (R172, 30_encoding.md R98). -/
def jtagToSwd (s : State) : State := writeBits (bitsOf s.cfg.jtagToSwd) s

/-- The core family an IDCODE stands for (R173). -/
def coreOfIdcode (cfg : Params) (v : Word) : CoreFamily :=
  if v = cfg.idcodeM34 then .m34 else if v = cfg.idcodeM0p then .m0p else .unknown

/-- The unconditional sequence before the IDCODE read (R173). -/
def linkSequence (s : State) : State := lineReset (jtagToSwd (lineReset (hwResetPulse s)))

/-- What a successful IDCODE read leaves (R173). -/
def acceptIdcode (s : State) : State :=
  { updateSession (fun x => { x with idcode := some s.rdata, core := some (coreOfIdcode s.cfg s.rdata) }) s with
    resData := s.rdata }

/-- `LINK_INIT` as a step of a run (R173). -/
def linkInit (s : State) : Res :=
  (checkXfer true .linkInitFailure (dpRead 0 (linkSequence (ensureSession s)))).andThen fun s => .ok (acceptIdcode s)

/-! ### Power sequencer. -/

/-- The polls of CTRL/STAT, `n` of them left (R180): there is a delay between polls and none after the last. -/
def pollPower : Nat → State → Res
  | 0, s => .raised .powerUpTimeout s
  | n + 1, s =>
    let t := dpRead 1 s
    if xferOk true t && poweredUp t.cfg t.rdata then .ok t
    else if n = 0 then .raised .powerUpTimeout t
    else pollPower n (delay t.cfg.tPollUs t)

/-- `POWER_UP` as a step of a run (R180). -/
def powerUp (s : State) : Res :=
  (checkXfer false .powerUpTimeout (dpWrite 1 s.cfg.pwrReq s)).andThen fun s => pollPower s.cfg.nPoll s

/-! ### AP configurator. -/

/-- The IDR value is taken before it is tested (R190). -/
def acceptIdr (s : State) : State :=
  { updateSession (fun x => { x with apIdr := some s.rdata }) s with resData := s.rdata }

/-- The lock test (R191): a locked part ends the command at once. -/
def checkLocked (s : State) : Res :=
  if s.rdata = s.cfg.idrLocked then .raised .debugLocked s else .ok s

/-- The device parameters: the same for a recognised family and for any other IDR (R190, 20_memory.md R76). -/
def deviceParameters (s : State) : State :=
  if s.rdata = s.cfg.idrFamilyA ∨ s.rdata = s.cfg.idrFamilyB then
    updateSession (fun x => { x with mscBase := some s.cfg.mscBase, pageSize := some s.cfg.pageSize }) s
  else
    updateSession (fun x => { x with mscBase := some s.cfg.mscBase, pageSize := some s.cfg.pageSize }) s

/-- `AP_CONFIG` as a step of a run (R190). -/
def apConfig (s : State) : Res :=
  (checkXfer false .apConfigFailure (dpWrite 2 s.cfg.selIdrBank (ensureSession s))).andThen fun s =>
  (checkXfer true .apConfigFailure (apRead 3 s)).andThen fun s =>
  (checkLocked (acceptIdr s)).andThen fun s =>
  (checkXfer false .apConfigFailure (dpWrite 2 s.cfg.selBank0 (deviceParameters s))).andThen fun s =>
  checkXfer false .apConfigFailure (apWrite 0 s.cfg.cswValue s)

/-! ### CPU controller. -/

/-- `CPU_HALT` as a step of a run (R200). -/
def cpuHalt (s : State) : Res :=
  (memWriteOr .haltFailure s.cfg.dhcsrAddr s.cfg.dhcsrHalt s).andThen fun s =>
  (memWriteOr .haltFailure s.cfg.demcrAddr s.cfg.demcrVc s).andThen fun s =>
  memWriteOr .haltFailure s.cfg.aircrAddr s.cfg.aircrReset s

/-- `CPU_RESET` as a step of a run (R201). -/
def cpuReset (s : State) : Res := memWriteOr .haltFailure s.cfg.aircrAddr s.cfg.aircrReset s

/-! ### Meanings. -/

/-- `HW_RESET_PULSE` (R170). -/
def execHwResetPulse (s : State) : Host.Outcome State Fault Refusal := .next (hwResetPulse s)

/-- `LINE_RESET` (R171). -/
def execLineReset (s : State) : Host.Outcome State Fault Refusal := .next (lineReset s)

/-- `JTAG_TO_SWD` (R172). -/
def execJtagToSwd (s : State) : Host.Outcome State Fault Refusal := .next (jtagToSwd s)

/-- `LINK_INIT` (R173). -/
def execLinkInit (s : State) : Host.Outcome State Fault Refusal := .next (report (linkInit s))

/-- `POWER_UP` (R180). -/
def execPowerUp (s : State) : Host.Outcome State Fault Refusal := .next (report (powerUp s))

/-- `AP_CONFIG` (R190). -/
def execApConfig (s : State) : Host.Outcome State Fault Refusal := .next (report (apConfig s))

/-- `CPU_HALT` (R200). -/
def execCpuHalt (s : State) : Host.Outcome State Fault Refusal := .next (report (cpuHalt s))

/-- `CPU_RESET` (R201). -/
def execCpuReset (s : State) : Host.Outcome State Fault Refusal := .next (report (cpuReset s))

end Sys2Proof.Machine
end

