-- ==== Sys2Proof/Machine/Orchestrator.lean ====
section
/-!
DEFINITION. The orchestrator, the LED blink driver, the trigger decoder and the reset-pin diagnostic (spec
45_status_orchestrator.md), with the meanings of `RUN`, `RESET_PIN_TEST`, `TICK` and `PRESS`.
-/

namespace Sys2Proof.Machine

/-! ### The run. -/

/-- The start of a run (R300): the guard is set, a new session replaces any other, status `Idle` and progress 0
without a notification, then `SetStatus(Initializing)`. -/
def startRun (s : State) : State :=
  setStatus .initializing
    { s with runActive := true, session := some .fresh, status := .idle, progress := 0 }

/-- The components of a run in order (R300, R303); the first that raises a kind ends it. A component called here begins
and ends no command of its own: `REG.cmd` and `REG.step` stay those of the host's command, the model's choice (log
29). -/
def runSteps (base len : Word) (s : State) : Res :=
  (linkInit s).andThen fun s =>
  (powerUp s).andThen fun s =>
  (apConfig s).andThen fun s =>
  (cpuHalt s).andThen fun s =>
  (flashErase base len (setStatus .programming s)).andThen fun s =>
  (flashWrite base len s).andThen fun s =>
  (flashVerify base len (setStatus .verifying s)).andThen fun s =>
  cpuReset s

/-- The end of a run: success (R300), or the abort (R301). -/
def endRun : Res → State
  | .ok s => { setStatus .success s with runActive := false, session := none, resKind := .ok }
  | .raised e s => takeError true e s

/-- `RUN` with the current `ARG_ADDR`, `ARG_LEN` and `IMAGE` (R300), also the `StartRequest()` of R310. A start while
a run is active changes nothing but `RES_KIND` (R302). -/
def run (s : State) : State :=
  if s.runActive then { s with resKind := .ok } else endRun (runSteps s.argAddr s.argLen (startRun s))

/-! ### The LED and the trigger. -/

/-- The blink rule (R297). -/
def blink (now : Nat) (s : State) : State :=
  match ledMode s.cfg s.status with
  | .off => { s with led := false }
  | .on => { s with led := true }
  | .toggle p => if p ≤ now - s.ledLastMs then { s with led := !s.led, ledLastMs := now } else s

/-- The trigger window rule (R311). The run it starts is part of the command that calls it (log 29). -/
def triggerWindow (now : Nat) (s : State) : State :=
  if windowPassed now s then run { s with pressPending := false } else s

/-- `n` cycles of the reset-pin diagnostic (R312). -/
def resetPinCycles : Nat → State → State
  | 0, s => s
  | n + 1, s =>
    resetPinCycles n
      (delay (s.cfg.rstTestHighMs * 1000) (setRst true (delay (s.cfg.rstTestLowMs * 1000) (setRst false s))))

/-- The reset-pin diagnostic (R312). -/
def resetPinTest (s : State) : State := resetPinCycles s.cfg.rstTestCycles s

/-- A press at `t` becomes the pending one (R310). -/
def holdPress (t : Nat) (s : State) : State := { s with pressPending := true, pressMs := t }

/-- The press rule (R310): a double press runs the diagnostic; any other first starts the run of an earlier pending
press, then waits. The diagnostic and the run are part of the `PRESS` (log 29). -/
def press (t : Nat) (s : State) : State :=
  if isDoublePress t s then resetPinTest { s with pressPending := false }
  else holdPress t (if s.pressPending then run { s with pressPending := false } else s)

/-! ### Meanings. -/

/-- `RUN` (R300). -/
def execRun (s : State) : Host.Outcome State Fault Refusal := .next (run s)

/-- `RESET_PIN_TEST` (R312). -/
def execResetPinTest (s : State) : Host.Outcome State Fault Refusal := .next (resetPinTest s)

/-- `TICK` (R298): the blink rule, then the window rule, with `now = ARG_DATA`. -/
def execTick (s : State) : Host.Outcome State Fault Refusal :=
  .next (triggerWindow s.argData.toNat (blink s.argData.toNat s))

/-- `PRESS` (R310) with the timestamp `ARG_DATA`. -/
def execPress (s : State) : Host.Outcome State Fault Refusal := .next (press s.argData.toNat s)

end Sys2Proof.Machine
end

