-- ==== Sys2Proof/Machine/Dispatch.lean ====
section
/-!
DEFINITION. The dispatch: one arm per constructor, each one call of that instruction's meaning.
-/

namespace Sys2Proof.Machine

def exec (i : Instr) (s : State) : Host.Outcome State Fault Refusal :=
  match i with
  | .clkCycle => Sys2Proof.Machine.execClkCycle s
  | .writeBit b => Sys2Proof.Machine.execWriteBit b s
  | .readBit => Sys2Proof.Machine.execReadBit s
  | .writeWord => Sys2Proof.Machine.execWriteWord s
  | .readWord => Sys2Proof.Machine.execReadWord s
  | .hwResetPulse => Sys2Proof.Machine.execHwResetPulse s
  | .lineReset => Sys2Proof.Machine.execLineReset s
  | .jtagToSwd => Sys2Proof.Machine.execJtagToSwd s
  | .linkInit => Sys2Proof.Machine.execLinkInit s
  | .xfer port rnw a => Sys2Proof.Machine.execXfer port rnw a s
  | .powerUp => Sys2Proof.Machine.execPowerUp s
  | .apConfig => Sys2Proof.Machine.execApConfig s
  | .cpuHalt => Sys2Proof.Machine.execCpuHalt s
  | .cpuReset => Sys2Proof.Machine.execCpuReset s
  | .memRead => Sys2Proof.Machine.execMemRead s
  | .memWrite => Sys2Proof.Machine.execMemWrite s
  | .flashErase => Sys2Proof.Machine.execFlashErase s
  | .massErase => Sys2Proof.Machine.execMassErase s
  | .pageErase => Sys2Proof.Machine.execPageErase s
  | .flashWrite => Sys2Proof.Machine.execFlashWrite s
  | .flashVerify => Sys2Proof.Machine.execFlashVerify s
  | .run => Sys2Proof.Machine.execRun s
  | .resetPinTest => Sys2Proof.Machine.execResetPinTest s
  | .tick => Sys2Proof.Machine.execTick s
  | .press => Sys2Proof.Machine.execPress s
  | .reqDoc7W0 => Sys2Proof.Machine.execReqDoc7W0 s
  | .reqDoc7W1 => Sys2Proof.Machine.execReqDoc7W1 s
  | .reqDoc7W2 => Sys2Proof.Machine.execReqDoc7W2 s
  | .reqDoc7W3 => Sys2Proof.Machine.execReqDoc7W3 s
  | .reqDoc7R0 => Sys2Proof.Machine.execReqDoc7R0 s
  | .reqDoc7R1 => Sys2Proof.Machine.execReqDoc7R1 s
  | .reqDoc7R2 => Sys2Proof.Machine.execReqDoc7R2 s
  | .reqDoc7R3 => Sys2Proof.Machine.execReqDoc7R3 s
  | .reqAdiv5DpW0 => Sys2Proof.Machine.execReqAdiv5DpW0 s
  | .reqAdiv5DpW1 => Sys2Proof.Machine.execReqAdiv5DpW1 s
  | .reqAdiv5DpW2 => Sys2Proof.Machine.execReqAdiv5DpW2 s
  | .reqAdiv5DpW3 => Sys2Proof.Machine.execReqAdiv5DpW3 s
  | .reqAdiv5DpR0 => Sys2Proof.Machine.execReqAdiv5DpR0 s
  | .reqAdiv5DpR1 => Sys2Proof.Machine.execReqAdiv5DpR1 s
  | .reqAdiv5DpR2 => Sys2Proof.Machine.execReqAdiv5DpR2 s
  | .reqAdiv5DpR3 => Sys2Proof.Machine.execReqAdiv5DpR3 s
  | .reqAdiv5ApW0 => Sys2Proof.Machine.execReqAdiv5ApW0 s
  | .reqAdiv5ApW1 => Sys2Proof.Machine.execReqAdiv5ApW1 s
  | .reqAdiv5ApW2 => Sys2Proof.Machine.execReqAdiv5ApW2 s
  | .reqAdiv5ApW3 => Sys2Proof.Machine.execReqAdiv5ApW3 s
  | .reqAdiv5ApR0 => Sys2Proof.Machine.execReqAdiv5ApR0 s
  | .reqAdiv5ApR1 => Sys2Proof.Machine.execReqAdiv5ApR1 s
  | .reqAdiv5ApR2 => Sys2Proof.Machine.execReqAdiv5ApR2 s
  | .reqAdiv5ApR3 => Sys2Proof.Machine.execReqAdiv5ApR3 s

end Sys2Proof.Machine
end

