-- ==== Sys2Proof/Machine/Step.lean ====
section
/-!
DEFINITION. One step: one command of the host, taken from its pending writes and run to completion (spec 10_state.md
R26, R41, 45_status_orchestrator.md R304).
-/

namespace Sys2Proof.Machine

/-- One step. A parameter set outside its constraints is refused before any command (60_exceptions.md R345); with no
host write pending the block waits (70_reset_and_hazards.md R370); a word that is no command is refused by the block
(30_encoding.md R103); any other starts, is executed to its end and ends. A header row of the other format is refused
by its meaning, so its step starts and ends a command: the model's choice (log 6). -/
def step (s : State) : Host.Outcome State Fault Refusal :=
  if !s.cfg.valid then .refused .badConfig
  else
    match s.host with
    | [] => .next s
    | h :: rest =>
      match decode h.frame with
      | .error _ => .next (refuseWord (acceptHostWrite h rest s))
      | .ok i => mapNext endCommand (exec i (beginCommand i (acceptHostWrite h rest s)))

/-- The state with the instruction of a table row as the host's next write, so that the next step runs it. A request
header belongs to one `REQ_FORMAT`, so that selection is made with it (logs 3, 6). -/
def State.withFetchWord (s : State) (nbits w : Nat) : State :=
  { s with
    cfg := selectFormat (frameOfTableWord nbits w) s.cfg
    host := { frame := frameOfTableWord nbits w } :: s.host }

end Sys2Proof.Machine
end

