-- ==== Sys2Proof/Safety.lean ====
section
/-!
DEFINITION. The terms claims are stated in: the pin events each rule lists, what a list of events does to the lines,
the bits a well-behaved target answers, what a command may change, and the invariants of a safe run.
-/

namespace Sys2Proof.Machine

/-! ### Pin events, as the rules list them. -/

/-- The events of `clock_cycle()` with half period `T` (40_transport.md R120). -/
def cycleEv (T : Nat) : List PinEvent := [.setClk false, .delay T, .setClk true, .delay T]

/-- The events of `n` clock cycles. -/
def cyclesEv (T : Nat) : Nat → List PinEvent
  | 0 => []
  | n + 1 => cycleEv T ++ cyclesEv T n

/-- The events of `write_bit(b)` (R121). -/
def writeBitEv (T : Nat) (b : Bool) : List PinEvent := [.setDir .output, .setDio b] ++ cycleEv T

/-- The events of `write_bit` for each of some bits. -/
def writeBitsEv (T : Nat) (bs : List Bool) : List PinEvent := bs.flatMap (writeBitEv T)

/-- The events of `read_bit()` answered with `b` (R122). -/
def readBitEv (T : Nat) (b : Bool) : List PinEvent :=
  [.setDir .input, .setClk false, .delay T, .setClk true, .sampleDio b, .delay T]

/-- The events of `read_bit` for each of some answers. -/
def readBitsEv (T : Nat) (bs : List Bool) : List PinEvent := bs.flatMap (readBitEv T)

/-- The events of `drive(v, n)` (R126). -/
def driveEv (T : Nat) (v : Bool) (n : Nat) : List PinEvent := [.setDir .output, .setDio v] ++ cyclesEv T n

/-- The events of an attempt up to turnaround 1 (41_transaction.md R140). -/
def requestEv (cfg : Params) (port : Port) (rnw : Bool) (a : BitVec 2) : List PinEvent :=
  [.setDir .output] ++ writeBitsEv cfg.tHalfUs (headerBits cfg.reqFormat port rnw a)
    ++ [.setDir .input] ++ cycleEv cfg.tHalfUs

/-- The events of the final turnaround and the idle cycles (R140). -/
def closeEv (cfg : Params) : List PinEvent := cycleEv cfg.tHalfUs ++ driveEv cfg.tHalfUs false cfg.nIdle

/-- The events of a read answered with `ACK_OK`, the word `w` and the parity bit `p` (R140). -/
def readOkEv (cfg : Params) (port : Port) (a : BitVec 2) (w : Word) (p : Bool) : List PinEvent :=
  requestEv cfg port true a ++ readBitsEv cfg.tHalfUs (bitsOf cfg.ackOk)
    ++ cyclesEv cfg.tHalfUs cfg.readTrn ++ readBitsEv cfg.tHalfUs (bitsOf w ++ [p]) ++ closeEv cfg

/-- The events of a write of `v` answered with `ACK_OK` (R140). -/
def writeOkEv (cfg : Params) (port : Port) (a : BitVec 2) (v : Word) : List PinEvent :=
  requestEv cfg port false a ++ readBitsEv cfg.tHalfUs (bitsOf cfg.ackOk)
    ++ cycleEv cfg.tHalfUs ++ writeBitsEv cfg.tHalfUs (bitsOf v ++ [writeParity cfg v]) ++ closeEv cfg

/-- The events of an attempt answered with an ACK `k` other than `ACK_OK` (R140). -/
def notOkEv (cfg : Params) (port : Port) (rnw : Bool) (a : BitVec 2) (k : BitVec 3) : List PinEvent :=
  requestEv cfg port rnw a ++ readBitsEv cfg.tHalfUs (bitsOf k) ++ closeEv cfg

/-- The events of a successful `MemWrite` (43_memory_access.md R222). -/
def memWriteEv (cfg : Params) (addr data : Word) : List PinEvent :=
  writeOkEv cfg .ap 1 addr ++ writeOkEv cfg .ap 3 data

/-- The events of a successful `MemRead` answered with `w` and the parity bit `p` (43_memory_access.md R220). -/
def memReadEv (cfg : Params) (addr w : Word) (p : Bool) : List PinEvent :=
  writeOkEv cfg .ap 1 addr ++ readOkEv cfg .ap 3 w p

/-- The events of the hardware reset pulse (42_link_power_ap_cpu.md R170). -/
def pulseEv (lowUs highUs : Nat) : List PinEvent :=
  [.setRst false, .delay lowUs, .setRst true, .delay highUs]

/-- The events of the line reset (42_link_power_ap_cpu.md R171). -/
def lineResetEv (cfg : Params) : List PinEvent :=
  driveEv cfg.tHalfUs true cfg.nLrHigh ++ driveEv cfg.tHalfUs false cfg.nIdle

/-- The events of `LINK_INIT` before the IDCODE read (42_link_power_ap_cpu.md R173). -/
def linkSequenceEv (cfg : Params) : List PinEvent :=
  pulseEv cfg.tRstHoldUs cfg.tRstBootUs ++ lineResetEv cfg
    ++ writeBitsEv cfg.tHalfUs (bitsOf cfg.jtagToSwd) ++ lineResetEv cfg

/-- The memory writes of `CPU_HALT`, each an address and a word (42_link_power_ap_cpu.md R200). -/
def haltWrites (cfg : Params) : List (Word × Word) :=
  [(cfg.dhcsrAddr, cfg.dhcsrHalt), (cfg.demcrAddr, cfg.demcrVc), (cfg.aircrAddr, cfg.aircrReset)]

/-- The memory writes of a mass erase (44_flash.md R241). -/
def massEraseWrites (cfg : Params) : List (Word × Word) :=
  [(mscWritectrl cfg, cfg.mscWren), (mscWritecmd cfg, cfg.cmdErasemain)]

/-- The memory writes of a page erase (44_flash.md R242). -/
def pageEraseWrites (cfg : Params) (pa : Word) : List (Word × Word) :=
  [(mscWritectrl cfg, cfg.mscWren), (mscAddrb cfg, pa), (mscWritecmd cfg, cfg.cmdLaddrim),
    (mscWritecmd cfg, cfg.cmdErasepage)]

/-- The memory writes that program image word `k` (44_flash.md R251). -/
def writeWordWrites (cfg : Params) (image : List Byte) (base len : Word) (k : Nat) : List (Word × Word) :=
  [(mscAddrb cfg, wordAddr base k), (mscWritecmd cfg, cfg.cmdLaddrim), (mscWdata cfg, wordOf image len.toNat k),
    (mscWritecmd cfg, cfg.cmdWritetrig)]

/-- The events of successful memory writes. -/
def memWritesEv (cfg : Params) (ws : List (Word × Word)) : List PinEvent := ws.flatMap fun w => memWriteEv cfg w.1 w.2

/-- The AP selector of the `m`-th transaction of some memory writes: TAR, DRW, TAR, … (43_memory_access.md R222). -/
def tarOrDrw (m : Nat) : BitVec 2 := if m % 2 = 0 then 1 else 3

/-- The transactions of some memory writes, each a selector and a word. -/
def transactionsOf (ws : List (Word × Word)) : List (BitVec 2 × Word) := ws.flatMap fun w => [(1, w.1), (3, w.2)]

/-- The events of some memory writes whose first `m` transactions are acknowledged and whose next is answered with
`k`, which ends them (60_exceptions.md R333, R334). -/
def failedWritesEv (cfg : Params) (ws : List (Word × Word)) (m : Nat) (k : BitVec 3) : List PinEvent :=
  ((transactionsOf ws).take m).flatMap (fun x => writeOkEv cfg .ap x.1 x.2) ++ notOkEv cfg .ap false (tarOrDrw m) k

/-- The events of a successful page erase (44_flash.md R242). -/
def pageEraseEv (cfg : Params) (pa : Word) : List PinEvent :=
  memWritesEv cfg (pageEraseWrites cfg pa) ++ [.delay cfg.tPageSettleUs]

/-- The events of a successful mass erase (44_flash.md R241). -/
def massEraseEv (cfg : Params) : List PinEvent := memWritesEv cfg (massEraseWrites cfg) ++ [.delay cfg.tMassSettleUs]

/-- The events of `n` successful page erases from `base` on (44_flash.md R243). -/
def erasePagesEv (cfg : Params) (base : Word) (n : Nat) : List PinEvent :=
  (List.range n).flatMap fun i => pageEraseEv cfg (pageAddr cfg base i)

/-- The events of a successful flash erase (44_flash.md R243). -/
def flashEraseEv (cfg : Params) (base len : Word) : List PinEvent :=
  if wantsMassErase cfg base len then massEraseEv cfg else erasePagesEv cfg base (pageCount cfg len)

/-- The events of programming image word `k` successfully (44_flash.md R251). -/
def writeWordEv (cfg : Params) (image : List Byte) (base len : Word) (k : Nat) : List PinEvent :=
  memWritesEv cfg (writeWordWrites cfg image base len k) ++ [.delay cfg.tWordSettleUs]

/-- The events of the enable write and of programming the first `n` image words successfully (44_flash.md R251). -/
def writeWordsEv (cfg : Params) (image : List Byte) (base len : Word) (n : Nat) : List PinEvent :=
  memWriteEv cfg (mscWritectrl cfg) cfg.mscWren ++ (List.range n).flatMap (writeWordEv cfg image base len)

/-- The events of a successful flash write (44_flash.md R251). -/
def flashWriteEv (cfg : Params) (image : List Byte) (base len : Word) : List PinEvent :=
  writeWordsEv cfg image base len (wordCount len)

/-- The image words in order (44_flash.md R250). -/
def imageWords (image : List Byte) (len : Word) : List Word := (List.range (wordCount len)).map (wordOf image len.toNat)

/-- The events of successful reads of the image words' addresses from position `k` on, answered with some words, each
with its even parity (44_flash.md R260). -/
def verifyReadsEv (cfg : Params) (base : Word) : Nat → List Word → List PinEvent
  | _, [] => []
  | k, w :: ws => memReadEv cfg (wordAddr base k) w (evenParity w) ++ verifyReadsEv cfg base (k + 1) ws

/-- The clock cycles among some events: one rising edge each. -/
def cyclesIn (evs : List PinEvent) : Nat := evs.count (.setClk true)

/-! ### What events do to the lines. -/

/-- SWCLK after some events, from level `v`. -/
def clkAfter (v : Bool) : List PinEvent → Bool
  | [] => v
  | .setClk w :: es => clkAfter w es
  | _ :: es => clkAfter v es

/-- `REG.dio_out` after some events, from `v`. -/
def dioAfter (v : Bool) : List PinEvent → Bool
  | [] => v
  | .setDio w :: es => dioAfter w es
  | _ :: es => dioAfter v es

/-- `REG.dio_dir` after some events, from `d`. -/
def dirAfter (d : Dir) : List PinEvent → Dir
  | [] => d
  | .setDir e :: es => dirAfter e es
  | _ :: es => dirAfter d es

/-- nRESET after some events, from level `v`. -/
def rstAfter (v : Bool) : List PinEvent → Bool
  | [] => v
  | .setRst w :: es => rstAfter w es
  | _ :: es => rstAfter v es

/-- The sum of the delays among some events, in µs. -/
def delayOf : List PinEvent → Nat
  | [] => 0
  | .delay n :: es => n + delayOf es
  | _ :: es => delayOf es

/-- No sample is taken while the block drives the line (10_state.md R24), from direction `d`. -/
def samplesOnlyInput (d : Dir) : List PinEvent → Bool
  | [] => true
  | .setDir e :: es => samplesOnlyInput e es
  | .sampleDio _ :: es => decide (d = .input) && samplesOnlyInput d es
  | _ :: es => samplesOnlyInput d es

/-- The state after some pin events: the lines, the time, `EV` and `REG.step` follow them; nothing else changes. -/
def play (evs : List PinEvent) (s : State) : State :=
  { s with
    swclk := clkAfter s.swclk evs
    dioOut := dioAfter s.dioOut evs
    dioDir := dirAfter s.dioDir evs
    nreset := rstAfter s.nreset evs
    timeUs := s.timeUs + delayOf evs
    evRev := evs.reverse ++ s.evRev
    stepCount := s.stepCount + evs.length }

/-! ### What a well-behaved target answers. -/

/-- The answers to `n` transactions that only take an ACK, all `ACK_OK`. -/
def okAcks (cfg : Params) : Nat → List Bool
  | 0 => []
  | n + 1 => bitsOf cfg.ackOk ++ okAcks cfg n

/-- The answers to a read: `ACK_OK`, the word, its parity bit. -/
def okRead (cfg : Params) (w : Word) (p : Bool) : List Bool := bitsOf cfg.ackOk ++ bitsOf w ++ [p]

/-- The answers to a `MemRead` of each of some words, each word with its even parity. -/
def okMemReads (cfg : Params) : List Word → List Bool
  | [] => []
  | w :: ws => okAcks cfg 1 ++ okRead cfg w (evenParity w) ++ okMemReads cfg ws

/-- The target's answer to one poll of CTRL/STAT: an ACK and, where it is `ACK_OK`, a word with its even parity. -/
def pollAnswer (cfg : Params) (q : BitVec 3 × Word) : List Bool :=
  if q.1 = cfg.ackOk then okRead cfg q.2 (evenParity q.2) else bitsOf q.1

/-- The events of one poll of CTRL/STAT so answered (42_link_power_ap_cpu.md R180). -/
def pollEv (cfg : Params) (q : BitVec 3 × Word) : List PinEvent :=
  if q.1 = cfg.ackOk then readOkEv cfg .dp 1 q.2 (evenParity q.2) else notOkEv cfg .dp true 1 q.1

/-- A poll that does not end the power-up: not acknowledged (and not retried), or an acknowledge bit missing (R180). -/
def pollFails (cfg : Params) (q : BitVec 3 × Word) : Bool :=
  if q.1 = cfg.ackOk then !poweredUp cfg q.2 else decide (q.1 = cfg.ackWait → cfg.waitRetries = 0)

/-- An ACK that fails the transaction after one attempt (41_transaction.md R142, R143). -/
def failingAck (cfg : Params) (k : BitVec 3) : Bool :=
  decide (k ≠ cfg.ackOk) && decide (k = cfg.ackWait → cfg.waitRetries = 0)

/-- The received parity bit `p` of a word does not fail the transaction (41_transaction.md R143). -/
def parityAccepted (cfg : Params) (w : Word) (p : Bool) : Bool :=
  decide (cfg.rdataParity = .ignore) || p == evenParity w

/-- `REG.err_count` after comparing some words with the image words from position `k` on, none of them ending the
verify early (44_flash.md R260). -/
def mismatches (image : List Byte) (len : Nat) : Nat → List Word → Nat
  | _, [] => 0
  | k, w :: ws => (if w = wordOf image len k then 0 else 1) + mismatches image len (k + 1) ws

/-- The parameters make sense to the reference target of 20_memory.md R80: the flash controller's registers and AIRCR
are five different addresses, its commands four different values, `MSC_WREN` sets the enable bit, the power-up request
sets both acknowledges, and the two SELECT values choose bank 0xF and another bank. -/
def refLayout (cfg : Params) : Bool :=
  decide [mscWritectrl cfg, mscWritecmd cfg, mscAddrb cfg, mscWdata cfg, cfg.aircrAddr].Nodup
    && decide [cfg.cmdLaddrim, cfg.cmdErasepage, cfg.cmdWritetrig, cfg.cmdErasemain].Nodup
    && cfg.mscWren.getLsbD 0
    && poweredUp cfg (cfg.pwrReq ||| ((cfg.pwrReq &&& cfg.pwrReq) <<< 1))
    && decide (cfg.selIdrBank.extractLsb' 4 4 = 0xF) && decide (cfg.selBank0.extractLsb' 4 4 ≠ 0xF)
    && decide (0 < cfg.nPoll)

/-- No image word's target address is one of the flash controller's registers or AIRCR. -/
def regionClear (cfg : Params) (base len : Word) : Bool :=
  (List.range (wordCount len)).all fun k =>
    !([mscWritectrl cfg, mscWritecmd cfg, mscAddrb cfg, mscWdata cfg, cfg.aircrAddr].contains (wordAddr base k))

/-! ### What a command may change. -/

/-- The state with everything a transaction may change set aside: the lines SWCLK and SWDIO, the transaction
registers, time, `EV`, `REG.step`, and the target. -/
def State.offWire (s : State) : State :=
  { s with
    swclk := false, dioDir := .output, dioOut := false, ack := 0, rdata := 0, rparity := false
    reqParity := false, timeUs := 0, evRev := [], stepCount := 0, answers := [], target := none }

/-- The state with everything a component command may change set aside: as `offWire`, and nRESET, the session,
progress and its notifications, the flash counters, and `RES_DATA`. -/
def State.offCommand (s : State) : State :=
  { s.offWire with
    nreset := false, session := none, progress := 0, note := [], errCount := 0, index := 0, resData := 0
    faults := [] }

/-- What no command changes: the parameters, the operands the host wrote, `REG.cmd`, the host's pending writes and the
count of free draws. -/
def State.hostSide (s : State) :
    Params × BitVec 16 × Word × Word × Word × List Byte × Option Instr × List HostWrite × Nat :=
  (s.cfg, s.cmdWord, s.argAddr, s.argData, s.argLen, s.image, s.cmd, s.host, s.freeDraws)

/-! ### The request headers. -/

/-- The format, port, direction and selector a request header row stands for (30_encoding.md R90, R92); a DOC7 header
carries no port. A command word is no header. -/
def headerOf : Instr → Option (ReqFormat × Port × Bool × BitVec 2)
  | .reqDoc7W0 => some (.doc7, .dp, false, 0)
  | .reqDoc7W1 => some (.doc7, .dp, false, 1)
  | .reqDoc7W2 => some (.doc7, .dp, false, 2)
  | .reqDoc7W3 => some (.doc7, .dp, false, 3)
  | .reqDoc7R0 => some (.doc7, .dp, true, 0)
  | .reqDoc7R1 => some (.doc7, .dp, true, 1)
  | .reqDoc7R2 => some (.doc7, .dp, true, 2)
  | .reqDoc7R3 => some (.doc7, .dp, true, 3)
  | .reqAdiv5DpW0 => some (.adiv5, .dp, false, 0)
  | .reqAdiv5DpW1 => some (.adiv5, .dp, false, 1)
  | .reqAdiv5DpW2 => some (.adiv5, .dp, false, 2)
  | .reqAdiv5DpW3 => some (.adiv5, .dp, false, 3)
  | .reqAdiv5DpR0 => some (.adiv5, .dp, true, 0)
  | .reqAdiv5DpR1 => some (.adiv5, .dp, true, 1)
  | .reqAdiv5DpR2 => some (.adiv5, .dp, true, 2)
  | .reqAdiv5DpR3 => some (.adiv5, .dp, true, 3)
  | .reqAdiv5ApW0 => some (.adiv5, .ap, false, 0)
  | .reqAdiv5ApW1 => some (.adiv5, .ap, false, 1)
  | .reqAdiv5ApW2 => some (.adiv5, .ap, false, 2)
  | .reqAdiv5ApW3 => some (.adiv5, .ap, false, 3)
  | .reqAdiv5ApR0 => some (.adiv5, .ap, true, 0)
  | .reqAdiv5ApR1 => some (.adiv5, .ap, true, 1)
  | .reqAdiv5ApR2 => some (.adiv5, .ap, true, 2)
  | .reqAdiv5ApR3 => some (.adiv5, .ap, true, 3)
  | .clkCycle | .writeBit _ | .readBit | .writeWord | .readWord | .hwResetPulse | .lineReset | .jtagToSwd |
  .linkInit | .xfer _ _ _ | .powerUp | .apConfig | .cpuHalt | .cpuReset | .memRead | .memWrite | .flashErase |
  .massErase | .pageErase | .flashWrite | .flashVerify | .run | .resetPinTest | .tick | .press => none

/-! ### Progress (44_flash.md R240). -/

/-- The notifications of setting the progress, from `p` on, to each of some values in turn: one where the value changes
(R240). -/
def progressNotes : Nat → List Nat → List Note
  | _, [] => []
  | p, q :: qs => (if q = p then [] else [.progress q]) ++ progressNotes q qs

/-- The progress is set after word `k`, counted from 0: after every `PROGRESS_STRIDE`-th word (R251, R260). With
`PROGRESS_STRIDE = 0` a free value (log 15). -/
def setsProgress (cfg : Params) (k : Nat) : Bool :=
  if cfg.progressStride = 0 then Config.strideZeroHit k else decide ((k + 1) % cfg.progressStride = 0)

/-- The progress set after the first `i` of some pages (R243). -/
def pageValues (cfg : Params) (pages i : Nat) : List Nat :=
  (List.range i).map fun j => cfg.pEraseEnd * (j + 1) / pages

/-- The progress a whole flash erase sets (R243). -/
def eraseValues (cfg : Params) (base len : Word) : List Nat :=
  (if wantsMassErase cfg base len then [] else pageValues cfg (pageCount cfg len) (pageCount cfg len)) ++ [cfg.pEraseEnd]

/-- The progress set after the first `m` of `n` words, in the phase from `lo` to `hi` (R251, R260). -/
def strideValues (cfg : Params) (lo hi n m : Nat) : List Nat :=
  ((List.range m).filter (setsProgress cfg)).map fun k => lo + (hi - lo) * (k + 1) / n

/-- The progress a flash write sets up to the end of its first `m` words (R251). -/
def writeValues (cfg : Params) (len : Word) (m : Nat) : List Nat :=
  cfg.pEraseEnd :: strideValues cfg cfg.pEraseEnd cfg.pWriteEnd (wordCount len) m

/-- The progress a flash verify sets up to the end of its first `m` words (R260). -/
def verifyValues (cfg : Params) (len : Word) (m : Nat) : List Nat :=
  cfg.pWriteEnd :: strideValues cfg cfg.pWriteEnd cfg.pVerifyEnd (wordCount len) m

/-! ### A run, phase by phase (45_status_orchestrator.md R300, R303). -/

/-- An acknowledged transaction: its port, whether it reads, its selector, and the word read or written. -/
structure Sent where
  port : Port
  rnw : Bool
  a : BitVec 2
  word : Word
  deriving DecidableEq, Repr

/-- Its events; a word read comes with its even parity. -/
def sentEv (cfg : Params) (x : Sent) : List PinEvent :=
  if x.rnw then readOkEv cfg x.port x.a x.word (evenParity x.word) else writeOkEv cfg x.port x.a x.word

/-- The answers to it. -/
def sentAnswers (cfg : Params) (x : Sent) : List Bool :=
  if x.rnw then okRead cfg x.word (evenParity x.word) else okAcks cfg 1

/-- The transactions of `LINK_INIT`, `POWER_UP` with one poll, and `AP_CONFIG`, where the IDCODE is `w`, CTRL/STAT `v`
and the IDR `x` (42_link_power_ap_cpu.md R173, R180, R190). -/
def connection (cfg : Params) (w v x : Word) : List Sent :=
  [⟨.dp, true, 0, w⟩, ⟨.dp, false, 1, cfg.pwrReq⟩, ⟨.dp, true, 1, v⟩, ⟨.dp, false, 2, cfg.selIdrBank⟩, ⟨.ap, true, 3, x⟩,
    ⟨.dp, false, 2, cfg.selBank0⟩, ⟨.ap, false, 0, cfg.cswValue⟩]

/-- The events of a run to the end of its first `m` transactions. -/
def connectingEv (cfg : Params) (w v x : Word) (m : Nat) : List PinEvent :=
  linkSequenceEv cfg ++ ((connection cfg w v x).take m).flatMap (sentEv cfg)

/-- The answers to a run's first `m` transactions. -/
def connectingAnswers (cfg : Params) (w v x : Word) (m : Nat) : List Bool :=
  ((connection cfg w v x).take m).flatMap (sentAnswers cfg)

/-- The events of a run to the end of `CPU_HALT`. -/
def haltedEv (cfg : Params) (w v x : Word) : List PinEvent :=
  connectingEv cfg w v x 7 ++ memWritesEv cfg (haltWrites cfg)

/-- The events of a run to the end of `FLASH_ERASE`. -/
def erasedEv (cfg : Params) (w v x base len : Word) : List PinEvent :=
  haltedEv cfg w v x ++ flashEraseEv cfg base len

/-- The events of a run to the end of `FLASH_WRITE`. -/
def writtenEv (cfg : Params) (w v x : Word) (image : List Byte) (base len : Word) : List PinEvent :=
  erasedEv cfg w v x base len ++ flashWriteEv cfg image base len

/-- The events of a whole run: the components' in order, `CPU_HALT` before the erase and `CPU_RESET` after the verify. -/
def runEv (cfg : Params) (w v x : Word) (image : List Byte) (base len : Word) : List PinEvent :=
  writtenEv cfg w v x image base len ++ verifyReadsEv cfg base 0 (imageWords image len)
    ++ memWriteEv cfg cfg.aircrAddr cfg.aircrReset

/-- How many transactions the erase of a region takes (44_flash.md R243). -/
def eraseAcks (cfg : Params) (base len : Word) : Nat :=
  if wantsMassErase cfg base len then 4 else 8 * pageCount cfg len

/-- The notifications of a run that has set the progress to some values before `Verifying` (R300). -/
def programmingNotes (vals : List Nat) : List Note :=
  [.status .initializing, .status .programming] ++ progressNotes 0 vals

/-- The notifications of a run that has set the progress to some values after `Verifying` (R300). -/
def verifyingNotes (cfg : Params) (base len : Word) (vals : List Nat) : List Note :=
  programmingNotes (eraseValues cfg base len ++ writeValues cfg len (wordCount len) ++ [cfg.pWriteEnd])
    ++ [.status .verifying] ++ progressNotes cfg.pWriteEnd vals

/-- The statuses a run can have notified when it raises a kind (R303). -/
def abortStatuses : ErrorKind → List (List Status)
  | .linkInitFailure | .powerUpTimeout | .apConfigFailure | .debugLocked => [[.initializing]]
  | .haltFailure => [[.initializing], [.initializing, .programming, .verifying]]
  | .eraseFailure | .writeFailure => [[.initializing, .programming]]
  | .verifyFailure => [[.initializing, .programming, .verifying]]

/-! ### Notifications of a run. -/

/-- The statuses among some notifications, in order. -/
def statusesOf : List Note → List Status
  | [] => []
  | .status v :: ns => v :: statusesOf ns
  | .progress _ :: ns => statusesOf ns

/-- The progress values among some notifications, in order. -/
def progressOf : List Note → List Nat
  | [] => []
  | .progress p :: ns => p :: progressOf ns
  | .status _ :: ns => progressOf ns

/-! ### Invariants. -/

/-- The lines, the time and the direction rule follow the event history from the reset levels (10_state.md R20 to R24,
R31). -/
def HistoryInv (s : State) : Prop :=
  s.swclk = clkAfter true s.ev ∧ s.dioOut = dioAfter false s.ev ∧ s.dioDir = dirAfter .output s.ev
    ∧ s.nreset = rstAfter true s.ev ∧ s.timeUs = delayOf s.ev ∧ samplesOnlyInput .output s.ev = true

/-- Between commands: the parameters meet their constraints, no run is active, no command is being executed, SWCLK is
high and nRESET released, progress is a percentage, the error count is in its range, and the only model fault that may
be recorded is that of a short image, since no command reads a session field (10_state.md R26, R35 to R37,
60_exceptions.md R345). -/
def IdleInv (s : State) : Prop :=
  s.cfg.valid = true ∧ s.runActive = false ∧ s.cmd = none ∧ s.swclk = true ∧ s.nreset = true
    ∧ s.progress ≤ 100 ∧ s.errCount ≤ s.cfg.verifyMaxErr + 1 ∧ (s.faults = [] ∨ s.faults = [.imageShort])

/-- A session's device parameters, where written, are the one pair of values, and `gen2` is 0 (20_memory.md R76,
10_state.md R32). -/
def SessionInv (s : State) : Prop :=
  ∀ x, s.session = some x →
    x.gen2 = false ∧ (x.mscBase = none ∨ x.mscBase = some s.cfg.mscBase)
      ∧ (x.pageSize = none ∨ x.pageSize = some s.cfg.pageSize)

/-- An attached reference target's memory is in canonical form. -/
def TargetMemoryInv (s : State) : Prop :=
  ∀ r, s.target = some r → Memory.wf (unlisted s.cfg r.flashSize) r.mem = true

end Sys2Proof.Machine
end

