-- ==== Sys2Proof/WellFormed.lean ====
section
/-!
DEFINITION. Well-formedness. An instruction's operand fields (a bit, a port, a 2-bit selector) have exactly the
values their types have, so every instruction term is well-formed. What can be ill-formed is the parameter set a
block is instantiated with (spec 60_exceptions.md R345); its checks are `Params.checks`, one per constraint.
-/

namespace Sys2Proof

/-- Every instruction is well-formed: 30_encoding.md R100 gives `B`, `A` and `P` all values of their widths. -/
def Instr.wellFormed : Instr → Bool := fun _ => true

/-- A parameter set that meets every constraint of 60_exceptions.md R345. -/
def Params.wellFormed (p : Params) : Bool := p.valid

end Sys2Proof
end

