-- ==== Sys2Proof/Certificates/Slice0/Obligations.lean ====
section
/-!
DEFINITION. The statements about the model, one `def Obligations.<Name> : Prop` each. A docstring names the rules of
the spec a statement formalises and, by its log entry, what of it is the model's own choice. Two choices recur:
`s.answers` is the model's script of what the target answers, so that a premise on it says what the target does (log 4);
and a command to which R101 gives no `RES_KIND` leaves `RES_KIND` as it was (log 10).
-/

open Sys2Proof Sys2Proof.Machine

/-! ### Encoding -/

/-- Decoding the encoding of an instruction gives the instruction back, with every operand at every value
(30_encoding.md R90, R92, R100, R101). -/
def Obligations.DecodeOfEncodeIsTheInstruction : Prop :=
  ∀ i : Instr, i.wellFormed = true → decode (encode i) = .ok i

/-- A frame that decodes is the encoding of its instruction: each word has one meaning (30_encoding.md R102). -/
def Obligations.EncodeOfDecodeIsTheFrame : Prop :=
  ∀ (f : Frame) (i : Instr), decode f = .ok i → encode i = f

/-- A command word that matches no row (`XFER` and `WRITE_BIT` under their masks, every other command as its exact
word) decodes to nothing, and a word that decodes to nothing is refused by the block: no pin event, and no change but
`RES_KIND <- REFUSED`; the host's own write of its registers, `acceptHostWrite`, stands (30_encoding.md R102, R103; log
16). -/
def Obligations.WordsThatAreNoCommandAreRefused : Prop :=
  (∀ w : BitVec 16,
    (∃ i, decode (.cmd w) = .ok i) ↔
      (w &&& 0xF0FF = 0x0020 ∨ w &&& 0xFEFF = 0x0002 ∨
        w ∈ ([0x0001, 0x0003, 0x0004, 0x0005, 0x0010, 0x0011, 0x0012, 0x0013, 0x0030, 0x0031, 0x0032, 0x0033,
          0x0040, 0x0041, 0x0050, 0x0051, 0x0052, 0x0053, 0x0054, 0x0060, 0x0061, 0x0070, 0x0071] :
          List (BitVec 16))))
  ∧ ∀ (s : State) (h : HostWrite) (rest : List HostWrite) (e : DecodeError),
    s.cfg.valid = true → s.host = h :: rest → decode h.frame = .error e →
    step s = .next { acceptHostWrite h rest s with resKind := .refused }

/-- A few words written out from the spec's encodings decode to the instructions they stand for (30_encoding.md R90,
R92, R101, 95_test_vectors.md V2.3). -/
def Obligations.WordsOfTheSpecDecode : Prop :=
  decode (.cmd 0x0001) = .ok .clkCycle ∧ decode (.cmd 0x0102) = .ok (.writeBit true)
    ∧ decode (.cmd 0x0120) = .ok (.xfer .dp true 0) ∧ decode (.cmd 0x0E20) = .ok (.xfer .ap false 3)
    ∧ decode (.cmd 0x0013) = .ok .linkInit ∧ decode (.cmd 0x0041) = .ok .memWrite
    ∧ decode (.cmd 0x0054) = .ok .flashVerify ∧ decode (.cmd 0x0060) = .ok .run
    ∧ decode (.header 0x5F) = .ok .reqDoc7R3 ∧ decode (.header 0x8B) = .ok .reqAdiv5ApW1

/-- `REG.req_parity` as each format computes it, when a header is sent (30_encoding.md R91). -/
def Obligations.RequestParityOfEachFormat : Prop :=
  ∀ (s : State) (port : Port) (rnw : Bool) (a : BitVec 2),
    (sendHeader .doc7 port rnw a s).reqParity = (rnw ^^ a.getLsbD 1 ^^ a.getLsbD 0) ∧
    (sendHeader .adiv5 port rnw a s).reqParity =
      (decide (port = .ap) ^^ rnw ^^ a.getLsbD 0 ^^ a.getLsbD 1)

/-- The header's bits, first bit 0, are the frame of the row that stands for them, in both formats (30_encoding.md
R90, R92). -/
def Obligations.HeaderRowsAreTheHeadersSent : Prop :=
  ∀ (i : Instr) (f : ReqFormat) (port : Port) (rnw : Bool) (a : BitVec 2), headerOf i = some (f, port, rnw, a) →
    encode i = .header (BitVec.ofNat 8 (natOfBits (headerBits f port rnw a)))
      ∧ (headerBits f port rnw a).length = (if f = .doc7 then 7 else 8)

/-! ### Reset and the step -/

/-- The state after reset, as the spec lists it (10_state.md R43). -/
def Obligations.ResetIsAsListed : Prop :=
  let s := State.reset
  s.swclk = true ∧ s.dioDir = .output ∧ s.dioOut = false ∧ s.nreset = true ∧ s.led = false ∧ s.cmd = none
    ∧ s.stepCount = 0 ∧ s.timeUs = 0 ∧ s.session = none ∧ s.status = .idle ∧ s.progress = 0
    ∧ s.runActive = false ∧ s.ev = [] ∧ s.note = [] ∧ s.ledLastMs = 0 ∧ s.pressPending = false
    ∧ s.resKind = .ok ∧ s.lastError = none

/-- A step runs the instruction that the host's next write decodes to: the write is accepted, the command begins
(`REG.cmd`, `REG.step = 0`, the flash counters unspecified), `exec` runs it, the command ends (10_state.md R26, R37,
R41; logs 2, 3, 9, 21; that a header row begins and ends as a command does, log 6; that
a command called inside another does not, log 29). -/
def Obligations.StepRunsTheDecodedInstruction : Prop :=
  ∀ (s : State) (h : HostWrite) (rest : List HostWrite) (i : Instr),
    s.cfg.valid = true → s.host = h :: rest → decode h.frame = .ok i →
    step s = mapNext endCommand (exec i (beginCommand i (acceptHostWrite h rest s)))

/-- With no host write pending the block waits and nothing changes (70_reset_and_hazards.md R370; log 3); a parameter
set that breaks a constraint is refused before any command (60_exceptions.md R345; log 24); and no step stops with a
fault, since a model fault is recorded and never final (R345; log 11). -/
def Obligations.StepWaitsOrStops : Prop :=
  (∀ s : State, s.cfg.valid = true → s.host = [] → step s = .next s)
    ∧ (∀ s : State, s.cfg.valid = false → step s = .refused .badConfig)
    ∧ ∀ (s : State) (f : Fault), step s ≠ .fault f

/-- When a command ends, `REG.cmd` is `NONE` and `REG.step` is the number of pin events it issued (10_state.md R26;
log 21; for a header row, log 6; those of the commands it calls among them, log 29). -/
def Obligations.StepCountsTheEventsOfTheCommand : Prop :=
  ∀ (s t : State) (h : HostWrite) (rest : List HostWrite) (i : Instr),
    s.host = h :: rest → decode h.frame = .ok i → step s = .next t →
    t.cmd = none ∧ ∃ evs, t.ev = s.ev ++ evs ∧ t.stepCount = evs.length

/-! ### Invariants and rules of the whole machine -/

/-- Every step keeps: the lines, the time and the direction rule follow the event history (10_state.md R20 to R24,
R31, R38). -/
def Obligations.EveryStepKeepsTheHistoryInvariant : Prop :=
  ∀ s t : State, HistoryInv s → step s = .next t → HistoryInv t

/-- Every step keeps what holds between commands (10_state.md R26, R35 to R37). -/
def Obligations.EveryStepKeepsTheIdleInvariant : Prop :=
  ∀ s t : State, IdleInv s → step s = .next t → IdleInv t

/-- Every step keeps the sessions' device parameters and the canonical form of an attached reference target's memory
(20_memory.md R76, R80). -/
def Obligations.EveryStepKeepsTheSessionAndTheTargetMemory : Prop :=
  ∀ s t : State, SessionInv s → TargetMemoryInv s → step s = .next t → SessionInv t ∧ TargetMemoryInv t

/-- The invariants hold at reset (10_state.md R43; the bound on `REG.err_count` through its reset value, log 8). -/
def Obligations.ResetMeetsTheInvariants : Prop :=
  HistoryInv State.reset ∧ IdleInv State.reset ∧ SessionInv State.reset ∧ TargetMemoryInv State.reset

/-- Every instruction completes from every state, whatever the target answers and however many image bytes the host
supplies; and so does every step of a block whose parameters meet their constraints (45_status_orchestrator.md R304,
60_exceptions.md R345; log 11). -/
def Obligations.EveryInstructionCompletes : Prop :=
  (∀ (i : Instr) (s : State), ∃ t, exec i s = .next t)
    ∧ ∀ s : State, s.cfg.valid = true → ∃ t, step s = .next t

/-- No instruction changes the parameters, the operands the host wrote, `REG.cmd` or the host's pending writes; `EV`
only grows, and `REG.step` and `REG.time_us` grow with it; and the only model fault an instruction can record is that
of an image byte not supplied, never where the host supplies `ARG_LEN` bytes (10_state.md R26, R31, R38, R41,
60_exceptions.md R345; logs 11, 13). That a command called inside another neither writes `REG.cmd` nor restarts `REG.step`
is the model's choice (log 29). -/
def Obligations.EveryInstructionKeepsTheHostSideAndExtendsTheHistory : Prop :=
  ∀ (i : Instr) (s t : State), exec i s = .next t →
    t.hostSide = s.hostSide
      ∧ (∃ evs, t.ev = s.ev ++ evs ∧ t.stepCount = s.stepCount + evs.length ∧ t.timeUs = s.timeUs + delayOf evs)
      ∧ (t.faults = s.faults ∨ t.faults = recorded .imageShort s.faults)
      ∧ (s.argLen.toNat ≤ s.image.length → t.faults = s.faults)

/-- A command other than `RUN`, `TICK` and `PRESS` changes neither the status, the last error, the run flag nor the
LED and trigger state, however it ends (10_state.md R23, 45_status_orchestrator.md R294, 60_exceptions.md R335). -/
def Obligations.StandaloneCommandsLeaveTheRunStateAlone : Prop :=
  ∀ (i : Instr) (s t : State), i ≠ .run → i ≠ .tick → i ≠ .press → exec i s = .next t →
    t.status = s.status ∧ t.lastError = s.lastError ∧ t.runActive = s.runActive ∧ t.led = s.led
      ∧ t.ledLastMs = s.ledLastMs ∧ t.pressPending = s.pressPending ∧ t.pressMs = s.pressMs

/-- The results each component command can report, from every state and whatever the target answers: `OK`, or an error
kind of its own; and the kinds' codes (60_exceptions.md R330). -/
def Obligations.ComponentCommandsRaiseOnlyTheirOwnKinds : Prop :=
  ∀ s : State,
    (∃ t, exec .linkInit s = .next t ∧ t.resKind ∈ [.ok, .error .linkInitFailure])
    ∧ (∃ t, exec .powerUp s = .next t ∧ t.resKind ∈ [.ok, .error .powerUpTimeout])
    ∧ (∃ t, exec .apConfig s = .next t ∧ t.resKind ∈ [.ok, .error .apConfigFailure, .error .debugLocked])
    ∧ (∃ t, exec .cpuHalt s = .next t ∧ t.resKind ∈ [.ok, .error .haltFailure])
    ∧ (∃ t, exec .cpuReset s = .next t ∧ t.resKind ∈ [.ok, .error .haltFailure])
    ∧ (∃ t, exec .massErase s = .next t ∧ t.resKind ∈ [.ok, .error .eraseFailure])
    ∧ (∃ t, exec .pageErase s = .next t ∧ t.resKind ∈ [.ok, .error .eraseFailure])
    ∧ (∃ t, exec .flashErase s = .next t ∧ t.resKind ∈ [.ok, .error .eraseFailure])
    ∧ (∃ t, exec .flashWrite s = .next t ∧ t.resKind ∈ [.ok, .error .writeFailure])
    ∧ (∃ t, exec .flashVerify s = .next t ∧ t.resKind ∈ [.ok, .error .verifyFailure])
    ∧ [ErrorKind.linkInitFailure, .powerUpTimeout, .apConfigFailure, .debugLocked, .haltFailure, .eraseFailure,
        .writeFailure, .verifyFailure].map errorCode = [1, 2, 3, 4, 5, 6, 7, 8]
    ∧ ∀ e, s.resKind = .error e → resErrorCode s = some (errorCode e)

/-- The frame of the component commands, from every state and whatever the target answers: apart from the lines, the
transaction registers, time, `EV` and the target, each changes only what its rule names (42_link_power_ap_cpu.md R173,
R180, R190, R200, R201, 43_memory_access.md R220, R222, 44_flash.md R241 to R260; `FLASH_ERASE` keeps `REG.cmd` through the erases it calls, log
29). -/
def Obligations.ComponentCommandsChangeOnlyWhatTheyName : Prop :=
  ∀ s t : State,
    (∀ port rnw a, exec (.xfer port rnw a) s = .next t →
      t.offWire = { s.offWire with resAck := t.resAck, resData := t.resData, resKind := t.resKind })
    ∧ (exec .linkInit s = .next t →
      t.offWire = { s.offWire with
        nreset := t.nreset, session := t.session, resData := t.resData, resKind := t.resKind })
    ∧ (exec .powerUp s = .next t → t.offWire = { s.offWire with resKind := t.resKind })
    ∧ (exec .apConfig s = .next t →
      t.offWire = { s.offWire with session := t.session, resData := t.resData, resKind := t.resKind })
    ∧ (exec .cpuHalt s = .next t → t.offWire = { s.offWire with resKind := t.resKind })
    ∧ (exec .cpuReset s = .next t → t.offWire = { s.offWire with resKind := t.resKind })
    ∧ (exec .memRead s = .next t → t.offWire = { s.offWire with resData := t.resData, resKind := t.resKind })
    ∧ (exec .memWrite s = .next t → t.offWire = { s.offWire with resKind := t.resKind })
    ∧ (exec .massErase s = .next t → t.offWire = { s.offWire with resKind := t.resKind })
    ∧ (exec .pageErase s = .next t → t.offWire = { s.offWire with resKind := t.resKind })
    ∧ (exec .flashErase s = .next t →
      t.offWire = { s.offWire with
        index := t.index, progress := t.progress, note := t.note, resKind := t.resKind })
    ∧ (exec .flashWrite s = .next t →
      t.offWire = { s.offWire with
        index := t.index, progress := t.progress, note := t.note, resKind := t.resKind
        faults := t.faults })
    ∧ (exec .flashVerify s = .next t →
      t.offWire = { s.offWire with
        index := t.index, errCount := t.errCount, progress := t.progress, note := t.note
        resData := t.resData, resKind := t.resKind, faults := t.faults })

/-! ### Transport -/

/-- `CLK_CYCLE` (40_transport.md R120; `RES_KIND` kept, log 10). -/
def Obligations.ClkCycleIsOneClockPeriod : Prop :=
  decode (.cmd 0x0001) = .ok .clkCycle ∧
  ∀ s : State, exec .clkCycle s = .next { s with
    swclk := true
    timeUs := s.timeUs + 2 * s.cfg.tHalfUs
    evRev := [.delay s.cfg.tHalfUs, .setClk true, .delay s.cfg.tHalfUs, .setClk false] ++ s.evRev
    stepCount := s.stepCount + 4 }

/-- `WRITE_BIT b` (40_transport.md R121; `RES_KIND` kept, log 10). -/
def Obligations.WriteBitDrivesOneBit : Prop :=
  ∀ b : Bool, decode (.cmd (0x0002 ||| bitAt b 8)) = .ok (.writeBit b) ∧
  ∀ s : State, exec (.writeBit b) s = .next { s with
    dioDir := .output, dioOut := b, swclk := true
    timeUs := s.timeUs + 2 * s.cfg.tHalfUs
    evRev := [.delay s.cfg.tHalfUs, .setClk true, .delay s.cfg.tHalfUs, .setClk false, .setDio b,
      .setDir .output] ++ s.evRev
    stepCount := s.stepCount + 6 }

/-- `READ_BIT`: the sample, taken after the rising edge and before the second delay, is the target's answer there
(40_transport.md R122; the script of answers, then the oracle: log 4). -/
def Obligations.ReadBitSamplesOneBit : Prop :=
  decode (.cmd 0x0003) = .ok .readBit ∧
  ∀ (s : State) (v : Bool),
    v = s.answers.headD (Config.oracle
      ([.setClk true, .delay s.cfg.tHalfUs, .setClk false, .setDir .input] ++ s.evRev)) →
    exec .readBit s = .next { s with
      dioDir := .input, swclk := true
      timeUs := s.timeUs + 2 * s.cfg.tHalfUs
      evRev := [.delay s.cfg.tHalfUs, .sampleDio v, .setClk true, .delay s.cfg.tHalfUs, .setClk false,
        .setDir .input] ++ s.evRev
      stepCount := s.stepCount + 6
      answers := s.answers.tail
      resData := if v then 1 else 0 }

/-- `WRITE_WORD`: 32 `write_bit`s, bit 0 of `ARG_DATA` first (40_transport.md R123; `RES_KIND` kept, log 10). -/
def Obligations.WriteWordDrivesItsBitsInOrder : Prop :=
  decode (.cmd 0x0004) = .ok .writeWord ∧
  ∀ s : State, exec .writeWord s = .next { s with
    dioDir := .output, dioOut := s.argData.getLsbD 31, swclk := true
    timeUs := s.timeUs + 64 * s.cfg.tHalfUs
    evRev := (writeBitsEv s.cfg.tHalfUs ((List.range 32).map fun i => s.argData.getLsbD i)).reverse ++ s.evRev
    stepCount := s.stepCount + 192 }

/-- `READ_WORD`: 32 `read_bit`s, the first sampled bit is bit 0; the samples are the target's answers, and every word
can be read (40_transport.md R124; log 4). -/
def Obligations.ReadWordAssemblesItsSamples : Prop :=
  decode (.cmd 0x0005) = .ok .readWord ∧
  (∀ s : State, ∃ (bs : List Bool) (w : Word),
    bs.length = 32 ∧ bs.take s.answers.length = s.answers.take 32 ∧ (∀ i < 32, bs.getD i false = w.getLsbD i) ∧
    exec .readWord s = .next { s with
      dioDir := .input, swclk := true
      timeUs := s.timeUs + 64 * s.cfg.tHalfUs
      evRev := (readBitsEv s.cfg.tHalfUs bs).reverse ++ s.evRev
      stepCount := s.stepCount + 192
      answers := s.answers.drop 32
      resData := w }) ∧
  (∀ (s : State) (w : Word), s.answers = (List.range 32).map (fun i => w.getLsbD i) →
    ∃ t, exec .readWord s = .next t ∧ t.resData = w)

/-- `drive(v, n)` and `idle(n)`: one `SetDir`, one `SetDio`, then `n` clock cycles (40_transport.md R125, R126). -/
def Obligations.DriveHoldsALevelForItsCycles : Prop :=
  ∀ (v : Bool) (n : Nat) (s : State),
    drive v n s = { s with
      dioDir := .output, dioOut := v, swclk := if n = 0 then s.swclk else true
      timeUs := s.timeUs + 2 * n * s.cfg.tHalfUs
      evRev := (driveEv s.cfg.tHalfUs v n).reverse ++ s.evRev
      stepCount := s.stepCount + (2 + 4 * n) }
    ∧ idle n s = drive false n s

/-! ### Request headers -/

/-- A request header of the block's format: `REG.req_parity`, then one `write_bit` per header bit, the park bit last
(30_encoding.md R90 to R92). That a header row is run on its own, and that a header of the other format is refused with
nothing else changed, are the model's choice (log 6). -/
def Obligations.HeadersSendTheirBits : Prop :=
  ∀ (i : Instr) (f : ReqFormat) (port : Port) (rnw : Bool) (a : BitVec 2) (s : State),
    headerOf i = some (f, port, rnw, a) →
    (s.cfg.reqFormat = f →
      exec i s = .next { s with
        reqParity := requestParity f port rnw a
        dioDir := .output, dioOut := true, swclk := true
        timeUs := s.timeUs + 2 * (headerBits f port rnw a).length * s.cfg.tHalfUs
        evRev := (writeBitsEv s.cfg.tHalfUs (headerBits f port rnw a)).reverse ++ s.evRev
        stepCount := s.stepCount + 6 * (headerBits f port rnw a).length })
    ∧ (s.cfg.reqFormat ≠ f → exec i s = .next { s with resKind := .refused })

/-! ### Transactions -/

/-- An `XFER` read answered with `ACK_OK`: the read frame, the word in `REG.rdata` and `RES_DATA`, the parity bit in
`REG.rparity`; a wrong parity bit fails it only where `RDATA_PARITY = CHECK`; nothing else changes (41_transaction.md
R140, R143). -/
def Obligations.XferReadAcknowledged : Prop :=
  ∀ (port : Port) (a : BitVec 2) (s : State) (w : Word) (p : Bool) (rest : List Bool),
    s.target = none → s.cfg.ackOk ≠ s.cfg.ackWait → s.answers = okRead s.cfg w p ++ rest →
    exec (.xfer port true a) s = .next { play (readOkEv s.cfg port a w p) s with
      answers := rest, reqParity := requestParity s.cfg.reqFormat port true a
      ack := s.cfg.ackOk, rdata := w, rparity := p
      resAck := s.cfg.ackOk, resData := w
      resKind := if s.cfg.rdataParity = .check ∧ p ≠ evenParity w then .nack else .ok }

/-- An `XFER` write answered with `ACK_OK`: the write frame with `ARG_DATA` and `wp`; nothing else changes
(41_transaction.md R140, R144). -/
def Obligations.XferWriteAcknowledged : Prop :=
  ∀ (port : Port) (a : BitVec 2) (s : State) (rest : List Bool),
    s.target = none → s.cfg.ackOk ≠ s.cfg.ackWait → s.answers = okAcks s.cfg 1 ++ rest →
    exec (.xfer port false a) s = .next { play (writeOkEv s.cfg port a s.argData) s with
      answers := rest, reqParity := requestParity s.cfg.reqFormat port false a
      ack := s.cfg.ackOk, resAck := s.cfg.ackOk, resKind := .ok }

/-- An `XFER` answered with an ACK that fails it: the short frame, no data phase, `NACK`, `RES_DATA` unchanged
(41_transaction.md R140, R142, R145). -/
def Obligations.XferNotAcknowledged : Prop :=
  ∀ (port : Port) (rnw : Bool) (a : BitVec 2) (s : State) (k : BitVec 3) (rest : List Bool),
    s.target = none → failingAck s.cfg k = true → s.answers = bitsOf k ++ rest →
    exec (.xfer port rnw a) s = .next { play (notOkEv s.cfg port rnw a k) s with
      answers := rest, reqParity := requestParity s.cfg.reqFormat port rnw a
      ack := k, resAck := k, resKind := .nack }

/-- WAIT handling: up to `WAIT_RETRIES` further attempts, each a whole one; then the transaction is not ok
(41_transaction.md R142). -/
def Obligations.XferRetriesWhileWaiting : Prop :=
  ∀ (port : Port) (a : BitVec 2) (s : State) (rest : List Bool),
    s.target = none → s.cfg.ackOk ≠ s.cfg.ackWait →
    (∀ m ≤ s.cfg.waitRetries,
      s.answers = (List.replicate m (bitsOf s.cfg.ackWait)).flatten ++ okAcks s.cfg 1 ++ rest →
      ∃ t, exec (.xfer port false a) s = .next t ∧ t.resKind = .ok ∧ t.answers = rest ∧
        t.ev = s.ev ++ (List.replicate m (notOkEv s.cfg port false a s.cfg.ackWait)).flatten
          ++ writeOkEv s.cfg port a s.argData)
    ∧ (∀ (m : Nat) (w : Word), m ≤ s.cfg.waitRetries →
      s.answers = (List.replicate m (bitsOf s.cfg.ackWait)).flatten ++ okRead s.cfg w (evenParity w) ++ rest →
      ∃ t, exec (.xfer port true a) s = .next t ∧ t.resKind = .ok ∧ t.resData = w ∧ t.answers = rest ∧
        t.ev = s.ev ++ (List.replicate m (notOkEv s.cfg port true a s.cfg.ackWait)).flatten
          ++ readOkEv s.cfg port a w (evenParity w))
    ∧ (∀ rnw : Bool,
      s.answers = (List.replicate (s.cfg.waitRetries + 1) (bitsOf s.cfg.ackWait)).flatten ++ rest →
      ∃ t, exec (.xfer port rnw a) s = .next t ∧ t.resKind = .nack ∧ t.resAck = s.cfg.ackWait ∧ t.answers = rest ∧
        t.ev = s.ev ++
          (List.replicate (s.cfg.waitRetries + 1) (notOkEv s.cfg port rnw a s.cfg.ackWait)).flatten)

/-- The clock cycles, the events and the time of an `XFER` of one attempt, read, write or not acknowledged: `EV` grows
by that many events, with that many rising edges of SWCLK, and two half periods of time for each (41_transaction.md
R148; log 4). -/
def Obligations.AttemptsHaveTheCountsListed : Prop :=
  ∀ (port : Port) (a : BitVec 2) (s : State) (rest : List Bool), s.target = none → s.cfg.ackOk ≠ s.cfg.ackWait →
    let H := if s.cfg.reqFormat = .doc7 then 7 else 8
    let N := s.cfg.nIdle
    let takes := fun (rnw : Bool) (cycles events : Nat) =>
      ∃ t evs, exec (.xfer port rnw a) s = .next t ∧ t.ev = s.ev ++ evs
        ∧ cyclesIn evs = cycles ∧ evs.length = events
        ∧ t.stepCount = s.stepCount + events ∧ t.timeUs = s.timeUs + 2 * s.cfg.tHalfUs * cycles
    (∀ (w : Word) (p : Bool), s.answers = okRead s.cfg w p ++ rest →
      takes true (H + 4 + s.cfg.readTrn + 33 + 1 + N)
        (1 + 6 * H + 1 + 4 + 18 + 4 * s.cfg.readTrn + 192 + 6 + 4 + (2 + 4 * N)))
    ∧ (s.answers = okAcks s.cfg 1 ++ rest →
      takes false (H + 4 + 1 + 33 + 1 + N) (1 + 6 * H + 1 + 4 + 18 + 4 + 192 + 6 + 4 + (2 + 4 * N)))
    ∧ (∀ (rnw : Bool) (k : BitVec 3), failingAck s.cfg k = true → s.answers = bitsOf k ++ rest →
      takes rnw (H + 4 + 1 + N) (1 + 6 * H + 1 + 4 + 18 + 4 + (2 + 4 * N)))

/-! ### Link, power, access port, CPU -/

/-- `HW_RESET_PULSE` (42_link_power_ap_cpu.md R170; `RES_KIND` kept, log 10). -/
def Obligations.HwResetPulseHoldsAndReleases : Prop :=
  decode (.cmd 0x0010) = .ok .hwResetPulse ∧
  ∀ s : State, exec .hwResetPulse s = .next { s with
      nreset := true
      timeUs := s.timeUs + (s.cfg.tRstHoldUs + s.cfg.tRstBootUs)
      evRev := [.delay s.cfg.tRstBootUs, .setRst true, .delay s.cfg.tRstHoldUs, .setRst false] ++ s.evRev
      stepCount := s.stepCount + 4 }
    ∧ (s.cfg.valid = true → 1000 ≤ s.cfg.tRstHoldUs ∧ 100 ≤ s.cfg.tRstBootUs)

/-- `LINE_RESET` (42_link_power_ap_cpu.md R171, 30_encoding.md R97; `RES_KIND` kept, log 10). -/
def Obligations.LineResetDrivesHighThenLow : Prop :=
  decode (.cmd 0x0011) = .ok .lineReset ∧
  ∀ s : State, s.cfg.valid = true →
    50 ≤ s.cfg.nLrHigh ∧
    exec .lineReset s = .next { s with
      dioDir := .output, dioOut := false, swclk := true
      timeUs := s.timeUs + 2 * (s.cfg.nLrHigh + s.cfg.nIdle) * s.cfg.tHalfUs
      evRev := (driveEv s.cfg.tHalfUs true s.cfg.nLrHigh
        ++ driveEv s.cfg.tHalfUs false s.cfg.nIdle).reverse ++ s.evRev
      stepCount := s.stepCount + (4 + 4 * s.cfg.nLrHigh + 4 * s.cfg.nIdle) }

/-- `JTAG_TO_SWD`: the 16 bits of the pattern, least-significant first (42_link_power_ap_cpu.md R172, 30_encoding.md
R98; `RES_KIND` kept, log 10). -/
def Obligations.JtagToSwdSendsThePattern : Prop :=
  decode (.cmd 0x0012) = .ok .jtagToSwd ∧ Params.reference.jtagToSwd = 0xE79E ∧
  (List.range 16).map (fun i => Params.reference.jtagToSwd.getLsbD i)
    = [false, true, true, true, true, false, false, true, true, true, true, false, false, true, true, true] ∧
  ∀ s : State, exec .jtagToSwd s = .next { s with
    dioDir := .output, dioOut := s.cfg.jtagToSwd.getLsbD 15, swclk := true
    timeUs := s.timeUs + 32 * s.cfg.tHalfUs
    evRev := (writeBitsEv s.cfg.tHalfUs
      ((List.range 16).map fun i => s.cfg.jtagToSwd.getLsbD i)).reverse ++ s.evRev
    stepCount := s.stepCount + 96 }

/-- `LINK_INIT`: the whole sequence, then the IDCODE read. Where it succeeds, `S.idcode`, `S.core` and `RES_DATA`, an
unknown IDCODE being accepted; where the read is not ok, `LinkInitFailure` with the session fields left unwritten
(42_link_power_ap_cpu.md R173; a scratch session where there is none, log 12). -/
def Obligations.LinkInitTakesTheIdcodeOrFails : Prop :=
  ∀ (s : State) (rest : List Bool), s.target = none → s.cfg.ackOk ≠ s.cfg.ackWait →
    (∀ (w : Word) (p : Bool), s.answers = okRead s.cfg w p ++ rest → parityAccepted s.cfg w p = true →
      exec .linkInit s = .next { play (linkSequenceEv s.cfg ++ readOkEv s.cfg .dp 0 w p) s with
        answers := rest, reqParity := requestParity s.cfg.reqFormat .dp true 0
        ack := s.cfg.ackOk, rdata := w, rparity := p
        session := some { s.session.getD .fresh with
          idcode := some w
          core := some (if w = s.cfg.idcodeM34 then .m34 else if w = s.cfg.idcodeM0p then .m0p else .unknown) }
        resData := w, resKind := .ok })
    ∧ (∀ k : BitVec 3, failingAck s.cfg k = true → s.answers = bitsOf k ++ rest →
      exec .linkInit s = .next { play (linkSequenceEv s.cfg ++ notOkEv s.cfg .dp true 0 k) s with
        answers := rest, reqParity := requestParity s.cfg.reqFormat .dp true 0, ack := k
        session := some (s.session.getD .fresh), resKind := .error .linkInitFailure })
    ∧ (∀ (w : Word) (p : Bool), s.answers = okRead s.cfg w p ++ rest → parityAccepted s.cfg w p = false →
      exec .linkInit s = .next { play (linkSequenceEv s.cfg ++ readOkEv s.cfg .dp 0 w p) s with
        answers := rest, reqParity := requestParity s.cfg.reqFormat .dp true 0
        ack := s.cfg.ackOk, rdata := w, rparity := p
        session := some (s.session.getD .fresh), resKind := .error .linkInitFailure })

/-- `POWER_UP` succeeds at the first poll that shows both acknowledges, after fewer than `N_POLL` unsuccessful ones,
with one delay after each of those; a poll that is not acknowledged counts as unsuccessful. It gives up after `N_POLL`
unsuccessful polls with no delay after the last, or at once where the request write is not acknowledged:
`PowerUpTimeout` (42_link_power_ap_cpu.md R180, R181). -/
def Obligations.PowerUpPollsUntilBothAcknowledges : Prop :=
  ∀ (s : State) (rest : List Bool), s.target = none → s.cfg.ackOk ≠ s.cfg.ackWait →
    (∀ (qs : List (BitVec 3 × Word)) (w : Word),
      qs.length < s.cfg.nPoll → (∀ q ∈ qs, pollFails s.cfg q = true) → poweredUp s.cfg w = true →
      s.answers = okAcks s.cfg 1 ++ qs.flatMap (pollAnswer s.cfg) ++ okRead s.cfg w (evenParity w) ++ rest →
      ∃ t, exec .powerUp s = .next t ∧ t.resKind = .ok ∧ t.rdata = w ∧ t.answers = rest ∧
        t.ev = s.ev ++ writeOkEv s.cfg .dp 1 s.cfg.pwrReq
          ++ qs.flatMap (fun q => pollEv s.cfg q ++ [.delay s.cfg.tPollUs])
          ++ readOkEv s.cfg .dp 1 w (evenParity w))
    ∧ (∀ (qs : List (BitVec 3 × Word)) (q : BitVec 3 × Word),
      qs.length + 1 = s.cfg.nPoll → (∀ x ∈ qs ++ [q], pollFails s.cfg x = true) →
      s.answers = okAcks s.cfg 1 ++ (qs ++ [q]).flatMap (pollAnswer s.cfg) ++ rest →
      ∃ t, exec .powerUp s = .next t ∧ t.resKind = .error .powerUpTimeout ∧ t.answers = rest ∧
        t.ev = s.ev ++ writeOkEv s.cfg .dp 1 s.cfg.pwrReq
          ++ qs.flatMap (fun x => pollEv s.cfg x ++ [.delay s.cfg.tPollUs]) ++ pollEv s.cfg q)
    ∧ (∀ k : BitVec 3, failingAck s.cfg k = true → s.answers = bitsOf k ++ rest →
      ∃ t, exec .powerUp s = .next t ∧ t.resKind = .error .powerUpTimeout ∧ t.answers = rest ∧
        t.ev = s.ev ++ notOkEv s.cfg .dp false 1 k)

/-- `AP_CONFIG` on a part that is not locked: four transactions, the IDR taken, the device parameters set whatever the
IDR. On a locked part: `DebugLocked` at once, no further transaction. Where the first SELECT, the IDR read, the second
SELECT or the CSW write is not ok: `ApConfigFailure`, no further transaction, and what was written before it stays
(42_link_power_ap_cpu.md R190, R191, 60_exceptions.md R333; a scratch session where there is none, log 12). -/
def Obligations.ApConfigSetsUpThePortOrFindsItLocked : Prop :=
  ∀ (s : State) (p : Bool) (rest : List Bool), s.target = none → s.cfg.ackOk ≠ s.cfg.ackWait →
    (∀ w : Word, w ≠ s.cfg.idrLocked → parityAccepted s.cfg w p = true →
      s.answers = okAcks s.cfg 1 ++ okRead s.cfg w p ++ okAcks s.cfg 2 ++ rest →
      exec .apConfig s = .next { play (writeOkEv s.cfg .dp 2 s.cfg.selIdrBank ++ readOkEv s.cfg .ap 3 w p
          ++ writeOkEv s.cfg .dp 2 s.cfg.selBank0 ++ writeOkEv s.cfg .ap 0 s.cfg.cswValue) s with
        answers := rest, reqParity := requestParity s.cfg.reqFormat .ap false 0
        ack := s.cfg.ackOk, rdata := w, rparity := p
        session := some { s.session.getD .fresh with
          apIdr := some w, mscBase := some s.cfg.mscBase, pageSize := some s.cfg.pageSize }
        resData := w, resKind := .ok })
    ∧ (parityAccepted s.cfg s.cfg.idrLocked p = true →
      s.answers = okAcks s.cfg 1 ++ okRead s.cfg s.cfg.idrLocked p ++ rest →
      exec .apConfig s = .next { play (writeOkEv s.cfg .dp 2 s.cfg.selIdrBank
          ++ readOkEv s.cfg .ap 3 s.cfg.idrLocked p) s with
        answers := rest, reqParity := requestParity s.cfg.reqFormat .ap true 3
        ack := s.cfg.ackOk, rdata := s.cfg.idrLocked, rparity := p
        session := some { s.session.getD .fresh with apIdr := some s.cfg.idrLocked }
        resData := s.cfg.idrLocked, resKind := .error .debugLocked })
    ∧ (∀ k : BitVec 3, failingAck s.cfg k = true →
      (s.answers = bitsOf k ++ rest →
        exec .apConfig s = .next { play (notOkEv s.cfg .dp false 2 k) s with
          answers := rest, reqParity := requestParity s.cfg.reqFormat .dp false 2, ack := k
          session := some (s.session.getD .fresh), resKind := .error .apConfigFailure })
      ∧ (s.answers = okAcks s.cfg 1 ++ bitsOf k ++ rest →
        exec .apConfig s = .next { play (writeOkEv s.cfg .dp 2 s.cfg.selIdrBank ++ notOkEv s.cfg .ap true 3 k) s with
          answers := rest, reqParity := requestParity s.cfg.reqFormat .ap true 3, ack := k
          session := some (s.session.getD .fresh), resKind := .error .apConfigFailure })
      ∧ (∀ w : Word, w ≠ s.cfg.idrLocked → parityAccepted s.cfg w p = true →
        (s.answers = okAcks s.cfg 1 ++ okRead s.cfg w p ++ bitsOf k ++ rest →
          exec .apConfig s = .next { play (writeOkEv s.cfg .dp 2 s.cfg.selIdrBank ++ readOkEv s.cfg .ap 3 w p
              ++ notOkEv s.cfg .dp false 2 k) s with
            answers := rest, reqParity := requestParity s.cfg.reqFormat .dp false 2
            ack := k, rdata := w, rparity := p
            session := some { s.session.getD .fresh with
              apIdr := some w, mscBase := some s.cfg.mscBase, pageSize := some s.cfg.pageSize }
            resData := w, resKind := .error .apConfigFailure })
        ∧ (s.answers = okAcks s.cfg 1 ++ okRead s.cfg w p ++ okAcks s.cfg 1 ++ bitsOf k ++ rest →
          exec .apConfig s = .next { play (writeOkEv s.cfg .dp 2 s.cfg.selIdrBank ++ readOkEv s.cfg .ap 3 w p
              ++ writeOkEv s.cfg .dp 2 s.cfg.selBank0 ++ notOkEv s.cfg .ap false 0 k) s with
            answers := rest, reqParity := requestParity s.cfg.reqFormat .ap false 0
            ack := k, rdata := w, rparity := p
            session := some { s.session.getD .fresh with
              apIdr := some w, mscBase := some s.cfg.mscBase, pageSize := some s.cfg.pageSize }
            resData := w, resKind := .error .apConfigFailure })))
    ∧ (∀ w : Word, parityAccepted s.cfg w p = false → s.answers = okAcks s.cfg 1 ++ okRead s.cfg w p ++ rest →
      exec .apConfig s = .next { play (writeOkEv s.cfg .dp 2 s.cfg.selIdrBank ++ readOkEv s.cfg .ap 3 w p) s with
        answers := rest, reqParity := requestParity s.cfg.reqFormat .ap true 3
        ack := s.cfg.ackOk, rdata := w, rparity := p
        session := some (s.session.getD .fresh), resKind := .error .apConfigFailure })

/-- `CPU_HALT` and `CPU_RESET` where every transaction is acknowledged: the three control writes, the one. A control
write that fails raises `HaltFailure` at its first failing transaction, and nothing more is sent
(42_link_power_ap_cpu.md R200, R201, 60_exceptions.md R334). -/
def Obligations.CpuControlWritesItsRegistersOrStops : Prop :=
  ∀ (s : State) (rest : List Bool), s.target = none → s.cfg.ackOk ≠ s.cfg.ackWait →
    (s.answers = okAcks s.cfg 6 ++ rest →
      exec .cpuHalt s = .next { play (memWritesEv s.cfg (haltWrites s.cfg)) s with
        answers := rest, reqParity := requestParity s.cfg.reqFormat .ap false 3
        ack := s.cfg.ackOk, resKind := .ok })
    ∧ (s.answers = okAcks s.cfg 2 ++ rest →
      exec .cpuReset s = .next { play (memWriteEv s.cfg s.cfg.aircrAddr s.cfg.aircrReset) s with
        answers := rest, reqParity := requestParity s.cfg.reqFormat .ap false 3
        ack := s.cfg.ackOk, resKind := .ok })
    ∧ (∀ (m : Nat) (k : BitVec 3), failingAck s.cfg k = true → s.answers = okAcks s.cfg m ++ bitsOf k ++ rest →
      (m < 6 → exec .cpuHalt s = .next { play (failedWritesEv s.cfg (haltWrites s.cfg) m k) s with
        answers := rest, reqParity := requestParity s.cfg.reqFormat .ap false (tarOrDrw m)
        ack := k, resKind := .error .haltFailure })
      ∧ (m < 2 → exec .cpuReset s = .next {
          play (failedWritesEv s.cfg [(s.cfg.aircrAddr, s.cfg.aircrReset)] m k) s with
        answers := rest, reqParity := requestParity s.cfg.reqFormat .ap false (tarOrDrw m)
        ack := k, resKind := .error .haltFailure }))

/-! ### Memory access -/

/-- `MEM_READ` and `MEM_WRITE` where both transactions succeed: TAR gets `ARG_ADDR`, DRW is read or gets `ARG_DATA`
(43_memory_access.md R220, R222). -/
def Obligations.MemoryAccessGoesThroughTarAndDrw : Prop :=
  ∀ (s : State) (rest : List Bool), s.target = none → s.cfg.ackOk ≠ s.cfg.ackWait →
    (∀ (w : Word) (p : Bool), parityAccepted s.cfg w p = true →
      s.answers = okAcks s.cfg 1 ++ okRead s.cfg w p ++ rest →
      exec .memRead s = .next { play (memReadEv s.cfg s.argAddr w p) s with
        answers := rest, reqParity := requestParity s.cfg.reqFormat .ap true 3
        ack := s.cfg.ackOk, rdata := w, rparity := p, resData := w, resKind := .ok })
    ∧ (s.answers = okAcks s.cfg 2 ++ rest →
      exec .memWrite s = .next { play (memWriteEv s.cfg s.argAddr s.argData) s with
        answers := rest, reqParity := requestParity s.cfg.reqFormat .ap false 3
        ack := s.cfg.ackOk, resKind := .ok })

/-- A failed first transaction skips the second; a failed read gives the sentinel, one with a wrong parity bit under
`RDATA_PARITY = CHECK` too; both commands report `NACK` (43_memory_access.md R220, R222, 41_transaction.md R143). -/
def Obligations.MemoryAccessFailures : Prop :=
  ∀ (s : State) (k : BitVec 3) (rest : List Bool),
    s.target = none → s.cfg.ackOk ≠ s.cfg.ackWait → failingAck s.cfg k = true →
    (s.answers = bitsOf k ++ rest →
      exec .memRead s = .next { play (notOkEv s.cfg .ap false 1 k) s with
        answers := rest, reqParity := requestParity s.cfg.reqFormat .ap false 1, ack := k
        resData := 0xFFFFFFFF, resKind := .nack }
      ∧ exec .memWrite s = .next { play (notOkEv s.cfg .ap false 1 k) s with
        answers := rest, reqParity := requestParity s.cfg.reqFormat .ap false 1, ack := k, resKind := .nack })
    ∧ (s.answers = okAcks s.cfg 1 ++ bitsOf k ++ rest →
      exec .memRead s = .next { play (writeOkEv s.cfg .ap 1 s.argAddr ++ notOkEv s.cfg .ap true 3 k) s with
        answers := rest, reqParity := requestParity s.cfg.reqFormat .ap true 3, ack := k
        resData := 0xFFFFFFFF, resKind := .nack }
      ∧ exec .memWrite s = .next { play (writeOkEv s.cfg .ap 1 s.argAddr ++ notOkEv s.cfg .ap false 3 k) s with
        answers := rest, reqParity := requestParity s.cfg.reqFormat .ap false 3, ack := k, resKind := .nack })
    ∧ (∀ (w : Word) (p : Bool), parityAccepted s.cfg w p = false →
      s.answers = okAcks s.cfg 1 ++ okRead s.cfg w p ++ rest →
      exec .memRead s = .next { play (memReadEv s.cfg s.argAddr w p) s with
        answers := rest, reqParity := requestParity s.cfg.reqFormat .ap true 3
        ack := s.cfg.ackOk, rdata := w, rparity := p, resData := 0xFFFFFFFF, resKind := .nack })

/-- The round trip on the reference target: a word written is the word read back at the same address, WRITECMD apart;
the write changes no other word of the target's memory and the read none (43_memory_access.md R223, 20_memory.md R80;
log 5). -/
def Obligations.ReferenceTargetReadsBackWhatIsWritten : Prop :=
  ∀ (s : State) (r : RefTarget),
    s.target = some r → TargetMemoryInv s → r.inject = [] → r.select.extractLsb' 4 4 ≠ 0xF →
    s.cfg.ackOk ≠ s.cfg.ackWait → s.argAddr ≠ mscWritecmd s.cfg →
    ∃ (t u : State) (q p : RefTarget), exec .memWrite s = .next t ∧ t.resKind = .ok ∧ exec .memRead t = .next u
      ∧ u.resKind = .ok ∧ u.resData = s.argData ∧ t.target = some q ∧ u.target = some p
      ∧ (∀ b : Word, b ≠ s.argAddr → q.load s.cfg b = r.load s.cfg b) ∧ p.mem = q.mem

/-! ### Flash -/

/-- `WordOf(k)`: four image bytes, the lowest address in the lowest bits, `0xFF` past the length; and the word that a
flash command reads is that word, wherever the host supplies the bytes it is made of (20_memory.md R70, 44_flash.md
R250). -/
def Obligations.ImageWordsAreLittleEndianAndPadded : Prop :=
  (∀ (image : List Byte) (len k i : Nat), i < 4 → (4 * k + i < len → 4 * k + i < image.length) →
    (wordOf image len k).extractLsb' (8 * i) 8 = if 4 * k + i < len then image.getD (4 * k + i) 0 else 0xFF)
  ∧ ∀ (len : Word) (k : Nat) (s : State),
    (∀ i < 4, 4 * k + i < len.toNat → 4 * k + i < s.image.length) → imageWord len k s = wordOf s.image len.toNat k

/-- `MASS_ERASE` and `PAGE_ERASE` where every write is acknowledged, and where a transaction of theirs fails:
`EraseFailure` at the first that does, with nothing sent after it and no settle delay (44_flash.md R241, R242,
60_exceptions.md R330, R334). -/
def Obligations.MassAndPageEraseSendTheirCommands : Prop :=
  ∀ (s : State) (rest : List Bool), s.target = none → s.cfg.ackOk ≠ s.cfg.ackWait →
    (s.answers = okAcks s.cfg 4 ++ rest →
      exec .massErase s = .next { play (massEraseEv s.cfg) s with
        answers := rest, reqParity := requestParity s.cfg.reqFormat .ap false 3
        ack := s.cfg.ackOk, resKind := .ok })
    ∧ (s.answers = okAcks s.cfg 8 ++ rest →
      exec .pageErase s = .next { play (pageEraseEv s.cfg s.argAddr) s with
        answers := rest, reqParity := requestParity s.cfg.reqFormat .ap false 3
        ack := s.cfg.ackOk, resKind := .ok })
    ∧ (∀ (m : Nat) (k : BitVec 3), failingAck s.cfg k = true → s.answers = okAcks s.cfg m ++ bitsOf k ++ rest →
      (m < 4 → exec .massErase s = .next { play (failedWritesEv s.cfg (massEraseWrites s.cfg) m k) s with
        answers := rest, reqParity := requestParity s.cfg.reqFormat .ap false (tarOrDrw m)
        ack := k, resKind := .error .eraseFailure })
      ∧ (m < 8 → exec .pageErase s = .next { play (failedWritesEv s.cfg (pageEraseWrites s.cfg s.argAddr) m k) s with
        answers := rest, reqParity := requestParity s.cfg.reqFormat .ap false (tarOrDrw m)
        ack := k, resKind := .error .eraseFailure }))

/-- `FLASH_ERASE` where every write is acknowledged: one mass erase of a region that starts at `FLASH_BASE` and is
longer than `MASS_THRESHOLD`, else `ceil(len / PAGE_SIZE)` page erases; progress is set after each page and ends at
`P_ERASE_END`, and is notified where it changes. Where a transaction fails: `EraseFailure` at the first that does,
nothing sent after it and no settle delay, `REG.index` is the page's, and the progress of the pages before it stands
(44_flash.md R240, R243, R244, 60_exceptions.md R330, R334). -/
def Obligations.FlashEraseFollowsThePolicy : Prop :=
  ∀ (s : State) (rest : List Bool), s.target = none → s.cfg.ackOk ≠ s.cfg.ackWait →
    let whole := s.argAddr = s.cfg.flashBase ∧ s.cfg.massThreshold.toNat < s.argLen.toNat
    let pages := (s.argLen.toNat + s.cfg.pageSize.toNat - 1) / s.cfg.pageSize.toNat
    let fails := fun (k : BitVec 3) (t : State) => exec .flashErase s = .next t ∧ t.resKind = .error .eraseFailure
      ∧ t.ack = k ∧ t.answers = rest
    (s.answers = okAcks s.cfg (if whole then 4 else 8 * pages) ++ rest →
      ∃ t, exec .flashErase s = .next t ∧ t.resKind = .ok ∧ t.answers = rest ∧ t.progress = s.cfg.pEraseEnd
        ∧ t.note = s.note ++ progressNotes s.progress (eraseValues s.cfg s.argAddr s.argLen)
        ∧ t.ev = s.ev ++ flashEraseEv s.cfg s.argAddr s.argLen)
    ∧ (∀ (m : Nat) (k : BitVec 3), whole → m < 4 → failingAck s.cfg k = true →
      s.answers = okAcks s.cfg m ++ bitsOf k ++ rest →
      ∃ t, fails k t ∧ t.progress = s.progress ∧ t.note = s.note
        ∧ t.ev = s.ev ++ failedWritesEv s.cfg (massEraseWrites s.cfg) m k)
    ∧ (∀ (i m : Nat) (k : BitVec 3), ¬ whole → i < pages → m < 8 → failingAck s.cfg k = true →
      s.answers = okAcks s.cfg (8 * i + m) ++ bitsOf k ++ rest →
      ∃ t, fails k t ∧ t.index = i
        ∧ t.progress = (if i = 0 then s.progress else s.cfg.pEraseEnd * i / pages)
        ∧ t.note = s.note ++ progressNotes s.progress (pageValues s.cfg pages i)
        ∧ t.ev = s.ev ++ erasePagesEv s.cfg s.argAddr i
          ++ failedWritesEv s.cfg (pageEraseWrites s.cfg (pageAddr s.cfg s.argAddr i)) m k)

/-- `FLASH_WRITE` where every write is acknowledged: one enable write, then each image word at its address, in order;
progress starts at `P_ERASE_END`, is set after every `PROGRESS_STRIDE`-th word and ends at `P_WRITE_END`, and is notified
where it changes (44_flash.md R240, R251, R252; a stride of 0: log 15). -/
def Obligations.FlashWriteProgramsEveryWord : Prop :=
  ∀ (s : State) (rest : List Bool),
    s.target = none → s.cfg.ackOk ≠ s.cfg.ackWait → s.argLen.toNat ≤ s.image.length →
    s.answers = okAcks s.cfg (2 + 8 * ((s.argLen.toNat + 3) / 4)) ++ rest →
    ∃ t, exec .flashWrite s = .next t ∧ t.resKind = .ok ∧ t.answers = rest ∧ t.progress = s.cfg.pWriteEnd
      ∧ t.note = s.note ++ progressNotes s.progress
        (writeValues s.cfg s.argLen ((s.argLen.toNat + 3) / 4) ++ [s.cfg.pWriteEnd])
      ∧ t.ev = s.ev ++ flashWriteEv s.cfg s.image s.argAddr s.argLen

/-- `FLASH_WRITE` stops at its first failing write, the enable write or one of a word: `WriteFailure`, nothing sent after
it, for a word `REG.index` is the word's, and the progress of the words before it stands (44_flash.md R240, R251,
60_exceptions.md R330, R334; a stride of 0: log 15). Of `REG.index` after a
failed enable write, which R330 leaves unspecified, nothing is said. -/
def Obligations.FlashWriteStopsAtTheFirstFailure : Prop :=
  ∀ (s : State) (j : Nat) (bad : BitVec 3) (rest : List Bool),
    s.target = none → s.cfg.ackOk ≠ s.cfg.ackWait → failingAck s.cfg bad = true →
    let fails := fun (t : State) => exec .flashWrite s = .next t ∧ t.resKind = .error .writeFailure
      ∧ t.ack = bad ∧ t.answers = rest
    (j < 2 → s.answers = okAcks s.cfg j ++ bitsOf bad ++ rest →
      ∃ t, fails t ∧ t.progress = s.cfg.pEraseEnd ∧ t.note = s.note ++ progressNotes s.progress [s.cfg.pEraseEnd]
        ∧ t.ev = s.ev ++ failedWritesEv s.cfg [(mscWritectrl s.cfg, s.cfg.mscWren)] j bad)
    ∧ (∀ k : Nat, s.argLen.toNat ≤ s.image.length → k < (s.argLen.toNat + 3) / 4 → j < 8 →
      s.answers = okAcks s.cfg (2 + 8 * k + j) ++ bitsOf bad ++ rest →
      ∃ t, fails t ∧ t.index = k ∧ t.note = s.note ++ progressNotes s.progress (writeValues s.cfg s.argLen k)
        ∧ t.ev = s.ev ++ writeWordsEv s.cfg s.image s.argAddr s.argLen k
          ++ failedWritesEv s.cfg (writeWordWrites s.cfg s.image s.argAddr s.argLen k) j bad)

/-- `FLASH_VERIFY` where every read succeeds and at most `VERIFY_MAX_ERR` words differ: each word is read once, in order,
at its address; progress starts at `P_WRITE_END`, is set after every `PROGRESS_STRIDE`-th word and notified where it
changes; zero mismatches is success with progress `P_VERIFY_END`, any other count is `VerifyFailure`; `RES_DATA` is the
count (44_flash.md R240, R260; a stride of 0: log 15). -/
def Obligations.FlashVerifyCountsTheMismatches : Prop :=
  ∀ (s : State) (ws : List Word) (rest : List Bool),
    s.target = none → s.cfg.ackOk ≠ s.cfg.ackWait → s.argLen.toNat ≤ s.image.length →
    ws.length = (s.argLen.toNat + 3) / 4 → mismatches s.image s.argLen.toNat 0 ws ≤ s.cfg.verifyMaxErr →
    s.answers = okMemReads s.cfg ws ++ rest →
    ∃ t, exec .flashVerify s = .next t ∧ t.answers = rest
      ∧ t.ev = s.ev ++ verifyReadsEv s.cfg s.argAddr 0 ws
      ∧ t.note = s.note ++ progressNotes s.progress (verifyValues s.cfg s.argLen ws.length
        ++ (if mismatches s.image s.argLen.toNat 0 ws = 0 then [s.cfg.pVerifyEnd] else []))
      ∧ t.errCount = mismatches s.image s.argLen.toNat 0 ws ∧ t.resData = BitVec.ofNat 32 t.errCount
      ∧ (t.errCount = 0 → t.resKind = .ok ∧ t.progress = s.cfg.pVerifyEnd)
      ∧ (t.errCount ≠ 0 → t.resKind = .error .verifyFailure)

/-- `FLASH_VERIFY` ends at the mismatch that exceeds `VERIFY_MAX_ERR`: it has read each word up to that one, at its
address, reads none after it, and sets no progress for it (44_flash.md R240, R260, R262; a stride of 0: log 15). -/
def Obligations.FlashVerifyStopsEarly : Prop :=
  ∀ (s : State) (ws : List Word) (w : Word) (rest : List Bool),
    s.target = none → s.cfg.ackOk ≠ s.cfg.ackWait → s.argLen.toNat ≤ s.image.length →
    ws.length < (s.argLen.toNat + 3) / 4 → mismatches s.image s.argLen.toNat 0 ws = s.cfg.verifyMaxErr →
    w ≠ wordOf s.image s.argLen.toNat ws.length → s.answers = okMemReads s.cfg (ws ++ [w]) ++ rest →
    ∃ t, exec .flashVerify s = .next t ∧ t.answers = rest ∧ t.resKind = .error .verifyFailure
      ∧ t.errCount = s.cfg.verifyMaxErr + 1 ∧ t.resData = BitVec.ofNat 32 (s.cfg.verifyMaxErr + 1)
      ∧ t.index = ws.length ∧ t.ev = s.ev ++ verifyReadsEv s.cfg s.argAddr 0 (ws ++ [w])
      ∧ t.note = s.note ++ progressNotes s.progress (verifyValues s.cfg s.argLen ws.length)

/-- A failed read of an erased word verifies: where every DRW read fails and every expected word is `0xFFFFFFFF`, the
verify succeeds (43_memory_access.md R221, 44_flash.md R261). -/
def Obligations.FailedReadsOfErasedWordsVerify : Prop :=
  ∀ (s : State) (k : BitVec 3) (rest : List Bool),
    s.target = none → s.cfg.ackOk ≠ s.cfg.ackWait → s.argLen.toNat ≤ s.image.length → failingAck s.cfg k = true →
    (∀ i < (s.argLen.toNat + 3) / 4, wordOf s.image s.argLen.toNat i = 0xFFFFFFFF) →
    s.answers = (List.replicate ((s.argLen.toNat + 3) / 4) (okAcks s.cfg 1 ++ bitsOf k)).flatten ++ rest →
    ∃ t, exec .flashVerify s = .next t ∧ t.resKind = .ok ∧ t.resData = 0 ∧ t.answers = rest
      ∧ t.ev = s.ev ++ (List.range ((s.argLen.toNat + 3) / 4)).flatMap fun i =>
        writeOkEv s.cfg .ap 1 (wordAddr s.argAddr i) ++ notOkEv s.cfg .ap true 3 k

/-- Progress of the flash commands, from every state and whatever the target answers: the values notified do not
decrease and stay within the phase (44_flash.md R264, 60_exceptions.md R345 for the bounds' order). -/
def Obligations.FlashProgressStaysInItsPhase : Prop :=
  ∀ s t : State, s.cfg.valid = true →
    (exec .flashErase s = .next t → ∃ l, t.note = s.note ++ l ∧ statusesOf l = []
      ∧ (progressOf l).Pairwise (· ≤ ·) ∧ ∀ p ∈ progressOf l, p ≤ s.cfg.pEraseEnd)
    ∧ (exec .flashWrite s = .next t → ∃ l, t.note = s.note ++ l ∧ statusesOf l = []
      ∧ (progressOf l).Pairwise (· ≤ ·) ∧ ∀ p ∈ progressOf l, s.cfg.pEraseEnd ≤ p ∧ p ≤ s.cfg.pWriteEnd)
    ∧ (exec .flashVerify s = .next t → ∃ l, t.note = s.note ++ l ∧ statusesOf l = []
      ∧ (progressOf l).Pairwise (· ≤ ·) ∧ ∀ p ∈ progressOf l, s.cfg.pWriteEnd ≤ p ∧ p ≤ s.cfg.pVerifyEnd)

/-- Model faults are recorded, never final and never cleared: every step keeps each that is recorded; a `FLASH_WRITE` of
more bytes than `IMAGE` has, every write acknowledged, records that of a short image and still completes; the
observation of a session field records one exactly where no rule has written the field (60_exceptions.md R345; logs 11,
13). -/
def Obligations.ModelFaultsAreRecordedAndNeverCleared : Prop :=
  (∀ (s t : State) (f : Fault), f ∈ s.faults → step s = .next t → f ∈ t.faults)
  ∧ (∀ (s : State) (rest : List Bool), s.target = none → s.cfg.ackOk ≠ s.cfg.ackWait →
    s.image.length < s.argLen.toNat → s.answers = okAcks s.cfg (2 + 8 * ((s.argLen.toNat + 3) / 4)) ++ rest →
    ∃ t, exec .flashWrite s = .next t ∧ t.faults = recorded .imageShort s.faults ∧ t.resKind = .ok
      ∧ t.answers = rest ∧ t.progress = s.cfg.pWriteEnd)
  ∧ ∀ (α : Type) (f : Session → Option α) (s : State),
    (∀ v, s.session.bind f = some v → readSession f s = (some v, s))
    ∧ (s.session.bind f = none →
      readSession f s = (none, { s with faults := recorded .sessionUnwritten s.faults }))
    ∧ (∀ g : Fault, g ∈ recorded g s.faults)

/-- Erase, write, verify on the reference target: with the flash controller's registers outside the image's region, the
verify of what was written finds no mismatch, for every length (44_flash.md R263, 20_memory.md R80; log 5). -/
def Obligations.VerifyAfterWriteFindsNoMismatch : Prop :=
  ∀ (s : State) (r : RefTarget),
    s.target = some r → TargetMemoryInv s → r.inject = [] → r.select.extractLsb' 4 4 ≠ 0xF → s.cfg.valid = true →
    refLayout s.cfg = true → s.argLen.toNat ≤ s.image.length → s.argAddr.toNat % 4 = 0 →
    regionClear s.cfg s.argAddr s.argLen = true →
    ∃ t u v, exec .flashErase s = .next t ∧ t.resKind = .ok ∧ exec .flashWrite t = .next u ∧ u.resKind = .ok
      ∧ exec .flashVerify u = .next v ∧ v.resKind = .ok ∧ v.errCount = 0

/-! ### The run, the LED and the trigger -/

/-- A run start while a run is active is a no-op that reports `OK` (45_status_orchestrator.md R302). -/
def Obligations.RunIsNotReentered : Prop :=
  ∀ s : State, s.runActive = true → exec .run s = .next { s with resKind := .ok }

/-- A run on the reference target, not locked, with the image supplied: it ends with `OK`, status `Success` and
progress `P_VERIFY_END`, and the target's memory holds every image word at its address. Its events are those of its
components in the order of the rules: link, IDCODE, power-up and its one poll, the four transactions of the access port,
`CPU_HALT`, erase, write, the verify's reads, `CPU_RESET`; and its notifications are the statuses and the progress of
each phase (45_status_orchestrator.md R300, R303, 70_reset_and_hazards.md R382, 44_flash.md R240, 20_memory.md R80; log
5; a stride of 0: log 15). -/
def Obligations.RunProgramsTheReferenceTarget : Prop :=
  ∀ (s : State) (r : RefTarget),
    s.target = some r → TargetMemoryInv s → r.inject = [] → s.runActive = false → s.cfg.valid = true →
    refLayout s.cfg = true →
    r.idr ≠ s.cfg.idrLocked → s.argLen.toNat ≤ s.image.length → s.argAddr.toNat % 4 = 0 →
    regionClear s.cfg s.argAddr s.argLen = true →
    ∃ (t : State) (q : RefTarget), exec .run s = .next t ∧ t.target = some q
      ∧ t.resKind = .ok ∧ t.status = .success ∧ t.progress = s.cfg.pVerifyEnd
      ∧ t.runActive = false ∧ t.session = none ∧ t.lastError = s.lastError
      ∧ t.ev = s.ev ++ runEv s.cfg r.idcode (s.cfg.pwrReq ||| ((s.cfg.pwrReq &&& s.cfg.pwrReq) <<< 1)) r.idr s.image
        s.argAddr s.argLen
      ∧ t.note = s.note ++ verifyingNotes s.cfg s.argAddr s.argLen
          (verifyValues s.cfg s.argLen ((s.argLen.toNat + 3) / 4) ++ [s.cfg.pVerifyEnd]) ++ [.status .success]
      ∧ ∀ k < (s.argLen.toNat + 3) / 4,
          q.load s.cfg (s.argAddr + BitVec.ofNat 32 (4 * k)) = wordOf s.image s.argLen.toNat k

/-- A run that ends is a success or one error kind, and never anything else: status, `RES_KIND`, `REG.last_error`, the
run flag and the session say so; and the status notifications it made are Initializing, Programming, Verifying,
Success, or stop at the phase whose component raises the kind and are followed by a single Error: Initializing for the
link, power, access port and lock kinds, Programming for erase and write, Verifying for verify, and Initializing or
Verifying for `HaltFailure` (45_status_orchestrator.md R291, R300, R301, R303, 60_exceptions.md R339). The LED and the trigger state stay as they were, since no `TICK` and no `PRESS` comes inside a
run (R305, log 19), and so does `RES_ACK`, which `XFER` alone writes (log 10). -/
def Obligations.RunsEndInSuccessOrOneError : Prop :=
  ∀ s t : State, s.runActive = false → exec .run s = .next t →
    t.runActive = false ∧ t.session = none ∧ t.led = s.led ∧ t.ledLastMs = s.ledLastMs
    ∧ t.pressPending = s.pressPending ∧ t.pressMs = s.pressMs ∧ t.resAck = s.resAck ∧ ∃ l, t.note = s.note ++ l ∧
    ((t.resKind = .ok ∧ t.status = .success ∧ t.progress = s.cfg.pVerifyEnd ∧ t.lastError = s.lastError
        ∧ statusesOf l = [.initializing, .programming, .verifying, .success]) ∨
      ∃ e, t.resKind = .error e ∧ t.status = .error ∧ t.lastError = some e
        ∧ ∃ ph ∈ abortStatuses e, statusesOf l = ph ++ [.error])

/-- The progress notifications of one run do not decrease and are percentages (10_state.md R35, 44_flash.md R264). -/
def Obligations.RunProgressNeverDecreases : Prop :=
  ∀ s t : State, s.cfg.valid = true → s.runActive = false → exec .run s = .next t →
    ∃ l, t.note = s.note ++ l ∧ (progressOf l).Pairwise (· ≤ ·) ∧ (∀ p ∈ progressOf l, p ≤ 100) ∧
      t.progress = (progressOf l).getLastD 0

/-- A run aborts at the first component that fails, whichever it is: the component's kind, status Error, the events up
to the failing transaction, the progress as it stands, nothing more asked of the target, not even the release reset, and
the notifications of the phases so far, then Error. In order: a transaction of the link, the power request or the access
port (a failed poll alone ends nothing); polls without both acknowledges; a locked part; `CPU_HALT`; the mass erase or a
page of the erase; the enable write or a word of the write; a verify that ends with mismatches or stops early;
`CPU_RESET` (45_status_orchestrator.md R300, R301, R303, 42_link_power_ap_cpu.md R191, 60_exceptions.md R330, R333; a
stride of 0: log 15). On a locked part `RES_DATA` is the IDR, as `DebugLocked` leaves it (R330); that a run writes
`RES_DATA` is the model's reading (log 17). -/
def Obligations.RunsAbortAtTheFirstFailure : Prop :=
  ∀ (s : State) (rest : List Bool) (w v x : Word) (k : BitVec 3),
    s.target = none → s.cfg.ackOk ≠ s.cfg.ackWait → s.runActive = false → failingAck s.cfg k = true →
    let aborts := fun (e : ErrorKind) (notes : List Note) (evs : List PinEvent) =>
      ∃ t, exec .run s = .next t ∧ t.answers = rest ∧ t.status = .error ∧ t.resKind = .error e
        ∧ t.lastError = some e ∧ t.session = none ∧ t.runActive = false
        ∧ t.progress = (progressOf notes).getLastD 0
        ∧ t.note = s.note ++ notes ++ [.status .error] ∧ t.ev = s.ev ++ evs
    let words := (s.argLen.toNat + 3) / 4
    (∀ (m : Nat) (y : Sent), (connection s.cfg w v x)[m]? = some y → m ≠ 2 →
      (2 < m → poweredUp s.cfg v = true ∧ 0 < s.cfg.nPoll) → (4 < m → x ≠ s.cfg.idrLocked) →
      s.answers = connectingAnswers s.cfg w v x m ++ bitsOf k ++ rest →
      aborts (if m = 0 then .linkInitFailure else if m = 1 then .powerUpTimeout else .apConfigFailure)
        [.status .initializing] (connectingEv s.cfg w v x m ++ notOkEv s.cfg y.port y.rnw y.a k))
    ∧ (∀ (qs : List (BitVec 3 × Word)) (q : BitVec 3 × Word),
      qs.length + 1 = s.cfg.nPoll → (∀ z ∈ qs ++ [q], pollFails s.cfg z = true) →
      s.answers = connectingAnswers s.cfg w v x 2 ++ (qs ++ [q]).flatMap (pollAnswer s.cfg) ++ rest →
      aborts .powerUpTimeout [.status .initializing] (connectingEv s.cfg w v x 2
        ++ qs.flatMap (fun z => pollEv s.cfg z ++ [.delay s.cfg.tPollUs]) ++ pollEv s.cfg q))
    ∧ (poweredUp s.cfg v = true → 0 < s.cfg.nPoll →
      (x = s.cfg.idrLocked → s.answers = connectingAnswers s.cfg w v x 5 ++ rest →
        aborts .debugLocked [.status .initializing] (connectingEv s.cfg w v x 5)
          ∧ ∀ t, exec .run s = .next t → t.resData = s.cfg.idrLocked)
      ∧ (x ≠ s.cfg.idrLocked →
        let sent := fun n : Nat => connectingAnswers s.cfg w v x 7 ++ okAcks s.cfg n
        let erased := 6 + eraseAcks s.cfg s.argAddr s.argLen
        (∀ m < 6, s.answers = sent m ++ bitsOf k ++ rest →
          aborts .haltFailure [.status .initializing]
            (connectingEv s.cfg w v x 7 ++ failedWritesEv s.cfg (haltWrites s.cfg) m k))
        ∧ (wantsMassErase s.cfg s.argAddr s.argLen = true → ∀ m < 4, s.answers = sent (6 + m) ++ bitsOf k ++ rest →
          aborts .eraseFailure (programmingNotes [])
            (haltedEv s.cfg w v x ++ failedWritesEv s.cfg (massEraseWrites s.cfg) m k))
        ∧ (wantsMassErase s.cfg s.argAddr s.argLen = false → ∀ i < pageCount s.cfg s.argLen, ∀ m < 8,
          s.answers = sent (6 + 8 * i + m) ++ bitsOf k ++ rest →
          aborts .eraseFailure (programmingNotes (pageValues s.cfg (pageCount s.cfg s.argLen) i))
            (haltedEv s.cfg w v x ++ erasePagesEv s.cfg s.argAddr i
              ++ failedWritesEv s.cfg (pageEraseWrites s.cfg (pageAddr s.cfg s.argAddr i)) m k))
        ∧ (∀ j < 2, s.answers = sent (erased + j) ++ bitsOf k ++ rest →
          aborts .writeFailure
            (programmingNotes (eraseValues s.cfg s.argAddr s.argLen ++ writeValues s.cfg s.argLen 0))
            (erasedEv s.cfg w v x s.argAddr s.argLen
              ++ failedWritesEv s.cfg [(mscWritectrl s.cfg, s.cfg.mscWren)] j k))
        ∧ (s.argLen.toNat ≤ s.image.length →
          let written := sent (erased + 2 + 8 * words)
          let writtenEvs := writtenEv s.cfg w v x s.image s.argAddr s.argLen
          let verifying := verifyingNotes s.cfg s.argAddr s.argLen
          (∀ i < words, ∀ j < 8, s.answers = sent (erased + 2 + 8 * i + j) ++ bitsOf k ++ rest →
            aborts .writeFailure
              (programmingNotes (eraseValues s.cfg s.argAddr s.argLen ++ writeValues s.cfg s.argLen i))
              (erasedEv s.cfg w v x s.argAddr s.argLen ++ writeWordsEv s.cfg s.image s.argAddr s.argLen i
                ++ failedWritesEv s.cfg (writeWordWrites s.cfg s.image s.argAddr s.argLen i) j k))
          ∧ (∀ ws : List Word, ws.length = words → mismatches s.image s.argLen.toNat 0 ws ≠ 0 →
            mismatches s.image s.argLen.toNat 0 ws ≤ s.cfg.verifyMaxErr →
            s.answers = written ++ okMemReads s.cfg ws ++ rest →
            aborts .verifyFailure (verifying (verifyValues s.cfg s.argLen words))
              (writtenEvs ++ verifyReadsEv s.cfg s.argAddr 0 ws))
          ∧ (∀ (ws : List Word) (z : Word), ws.length < words →
            mismatches s.image s.argLen.toNat 0 ws = s.cfg.verifyMaxErr →
            z ≠ wordOf s.image s.argLen.toNat ws.length → s.answers = written ++ okMemReads s.cfg (ws ++ [z]) ++ rest →
            aborts .verifyFailure (verifying (verifyValues s.cfg s.argLen ws.length))
              (writtenEvs ++ verifyReadsEv s.cfg s.argAddr 0 (ws ++ [z])))
          ∧ (∀ j < 2,
            s.answers = written ++ okMemReads s.cfg (imageWords s.image s.argLen) ++ okAcks s.cfg j ++ bitsOf k ++ rest →
            aborts .haltFailure (verifying (verifyValues s.cfg s.argLen words ++ [s.cfg.pVerifyEnd]))
              (writtenEvs ++ verifyReadsEv s.cfg s.argAddr 0 (imageWords s.image s.argLen)
                ++ failedWritesEv s.cfg [(s.cfg.aircrAddr, s.cfg.aircrReset)] j k)))))

/-- `RESET_PIN_TEST`: its cycles of nRESET low and high; nothing else is touched (45_status_orchestrator.md R312;
`RES_KIND` kept, log 10; zero cycles leave nRESET alone, log 26). -/
def Obligations.ResetPinTestTogglesTheResetLine : Prop :=
  decode (.cmd 0x0061) = .ok .resetPinTest ∧
  ∀ s : State, exec .resetPinTest s = .next { s with
    nreset := if s.cfg.rstTestCycles = 0 then s.nreset else true
    timeUs := s.timeUs + s.cfg.rstTestCycles * (s.cfg.rstTestLowMs * 1000 + s.cfg.rstTestHighMs * 1000)
    evRev := (List.replicate s.cfg.rstTestCycles
      (pulseEv (s.cfg.rstTestLowMs * 1000) (s.cfg.rstTestHighMs * 1000))).flatten.reverse ++ s.evRev
    stepCount := s.stepCount + 4 * s.cfg.rstTestCycles }

/-- `TICK`: the blink rule with the LED table; and where the window of a pending press has passed, after it, the run of
that press (45_status_orchestrator.md R296 to R298, R311; `RES_KIND` kept where no run starts, log 10; the run
keeps the tick's `REG.cmd` and `REG.step`, log 29). -/
def Obligations.TickBlinksAndStartsTheWaitingRun : Prop :=
  ∀ s : State,
    let now := s.argData.toNat
    let toggled := fun p : Nat =>
      if p ≤ now - s.ledLastMs then { s with led := !s.led, ledLastMs := now } else s
    let blinked := match s.status with
      | .idle => { s with led := false }
      | .initializing => toggled s.cfg.ledInitializingMs
      | .programming => toggled s.cfg.ledProgrammingMs
      | .verifying => toggled s.cfg.ledVerifyingMs
      | .success => { s with led := true }
      | .error => toggled s.cfg.ledErrorMs
    (¬ (s.pressPending = true ∧ s.cfg.doubleClickMs ≤ now - s.pressMs) → exec .tick s = .next blinked)
    ∧ (s.pressPending = true → s.cfg.doubleClickMs ≤ now - s.pressMs →
      exec .tick s = exec .run { blinked with pressPending := false })

/-- `PRESS`: a press within the window of a pending one runs the diagnostic and no run; a press with none pending
waits; a later press first starts the earlier one's run, then waits itself (45_status_orchestrator.md
R310; `RES_KIND` kept where no run starts, log 10; the run and the diagnostic keep the press's `REG.cmd` and `REG.step`,
log 29). -/
def Obligations.PressDecidesByTheWindow : Prop :=
  ∀ s : State,
    (s.pressPending = true → s.argData.toNat - s.pressMs < s.cfg.doubleClickMs →
      exec .press s = exec .resetPinTest { s with pressPending := false })
    ∧ (s.pressPending = false →
      exec .press s = .next { s with pressPending := true, pressMs := s.argData.toNat })
    ∧ (s.pressPending = true → s.cfg.doubleClickMs ≤ s.argData.toNat - s.pressMs →
      exec .press s = mapNext (fun t => { t with pressPending := true, pressMs := s.argData.toNat })
        (exec .run { s with pressPending := false }))
end

