-- ==== Sys2Proof/Laws/Memory.lean ====
section
/-!
SUPPORT. Laws of the reference target's memory: a read after a write, and that every memory operation keeps the
canonical form.
-/

namespace Sys2Proof.Machine

variable {dflt : Nat → Word}

/-- An address below every listed one reads as unlisted. -/
theorem Memory.get_of_below (m : List (Nat × Word)) (a : Nat) (h : ∀ c ∈ m, a < c.1) :
    Memory.get dflt m a = dflt a := by
  induction m with
  | nil => rfl
  | cons c m ih =>
    have hc := h c (by simp)
    rw [Memory.get, if_neg (by omega), ih fun d hd => h d (by simp [hd])]

/-- The canonical form of a nonempty list. -/
theorem Memory.wf_cons (c : Nat × Word) (m : List (Nat × Word)) :
    Memory.wf dflt (c :: m) = true ↔
      c.2 ≠ dflt c.1 ∧ (∀ d ∈ m, c.1 < d.1) ∧ Memory.wf dflt m = true := by
  simp [Memory.wf, and_assoc]

/-- What a write lists stays above a bound that the address and the memory are above. -/
theorem Memory.put_above (m : List (Nat × Word)) (a : Nat) (v : Word) (n : Nat) (ha : n < a)
    (h : ∀ c ∈ m, n < c.1) : ∀ c ∈ Memory.put dflt m a v, n < c.1 := by
  induction m with
  | nil => unfold Memory.put; split <;> simp [ha]
  | cons c m ih =>
    obtain ⟨b, w⟩ := c
    have hm : ∀ d ∈ m, n < d.1 := fun d hd => h d (by simp [hd])
    have hb : n < b := h (b, w) (by simp)
    unfold Memory.put
    split_ifs
    all_goals first | exact hm | simp only [List.mem_cons, forall_eq_or_imp]
    all_goals first | exact ⟨hb, hm⟩ | exact ⟨ha, hb, hm⟩ | exact ⟨ha, hm⟩ | exact ⟨hb, ih hm⟩

/-- A read of the address written gives the value written. -/
theorem Memory.get_put_same (m : List (Nat × Word)) (a : Nat) (v : Word) (hm : Memory.wf dflt m = true) :
    Memory.get dflt (Memory.put dflt m a v) a = v := by
  induction m with
  | nil =>
    unfold Memory.put
    split
    · simp_all [Memory.get]
    · simp [Memory.get]
  | cons c m ih =>
    obtain ⟨b, w⟩ := c
    obtain ⟨-, hlt, hwf⟩ := (Memory.wf_cons _ _).1 hm
    have hbelow : ∀ x, x ≤ b → ∀ d ∈ m, x < d.1 := fun x hx d hd => by have := hlt d hd; simp at this; omega
    unfold Memory.put
    split
    · rename_i hab
      split
      · rename_i hv
        rw [Memory.get, if_neg (by omega), Memory.get_of_below _ _ (hbelow _ hab.le), hv]
      · simp [Memory.get]
    · split
      · subst_vars
        split
        · rename_i hv
          rw [Memory.get_of_below _ _ (hbelow _ le_rfl), hv]
        · simp [Memory.get]
      · rename_i hab
        rw [Memory.get, if_neg hab, ih hwf]

/-- A write leaves every other address alone. -/
theorem Memory.get_put_other (m : List (Nat × Word)) {a b : Nat} (v : Word) (h : b ≠ a) :
    Memory.get dflt (Memory.put dflt m a v) b = Memory.get dflt m b := by
  induction m with
  | nil =>
    unfold Memory.put
    split <;> simp [Memory.get, h]
  | cons c m ih =>
    obtain ⟨x, w⟩ := c
    unfold Memory.put
    split
    · split <;> simp [Memory.get, h]
    · split
      · subst_vars
        split <;> simp [Memory.get, h]
      · simp only [Memory.get, ih]

/-- A write keeps the canonical form. -/
theorem Memory.put_wf (m : List (Nat × Word)) (a : Nat) (v : Word) (hm : Memory.wf dflt m = true) :
    Memory.wf dflt (Memory.put dflt m a v) = true := by
  induction m with
  | nil => unfold Memory.put; split <;> simp_all [Memory.wf]
  | cons c m ih =>
    obtain ⟨b, w⟩ := c
    obtain ⟨hw, hlt, hwf⟩ := (Memory.wf_cons _ _).1 hm
    unfold Memory.put
    split_ifs with h₁ h₂ h₃ h₄
    · exact hm
    · refine (Memory.wf_cons _ _).2 ⟨h₂, ?_, hm⟩
      simp only [List.mem_cons, forall_eq_or_imp]
      exact ⟨h₁, fun d hd => h₁.trans (hlt d hd)⟩
    · exact hwf
    · subst h₃
      exact (Memory.wf_cons _ _).2 ⟨h₄, hlt, hwf⟩
    · exact (Memory.wf_cons _ _).2 ⟨hw, Memory.put_above _ _ _ _ (by simp; omega) hlt, ih hwf⟩

/-- A fill keeps the canonical form. -/
theorem Memory.fill_wf (m : List (Nat × Word)) (v : Word) (as : List Nat) (hm : Memory.wf dflt m = true) :
    Memory.wf dflt (Memory.fill dflt m v as) = true := by
  induction as generalizing m with
  | nil => exact hm
  | cons a as ih => exact ih _ (Memory.put_wf _ _ _ hm)

/-- A fill leaves every address outside it alone. -/
theorem Memory.get_fill_other (m : List (Nat × Word)) (v : Word) (as : List Nat) {b : Nat} (h : b ∉ as) :
    Memory.get dflt (Memory.fill dflt m v as) b = Memory.get dflt m b := by
  induction as generalizing m with
  | nil => rfl
  | cons a as ih =>
    simp only [List.mem_cons, not_or] at h
    rw [Memory.fill, ih _ h.2, Memory.get_put_other _ _ h.1]

/-- Dropping entries keeps the canonical form. -/
theorem Memory.filter_wf (m : List (Nat × Word)) (p : Nat × Word → Bool) (hm : Memory.wf dflt m = true) :
    Memory.wf dflt (m.filter p) = true := by
  induction m with
  | nil => rfl
  | cons c m ih =>
    obtain ⟨hw, hlt, hwf⟩ := (Memory.wf_cons _ _).1 hm
    rw [List.filter_cons]
    split
    · exact (Memory.wf_cons _ _).2 ⟨hw, fun d hd => hlt d (List.mem_filter.1 hd).1, ih hwf⟩
    · exact ih hwf

/-! ### The reference target's operations keep the canonical form (20_memory.md R80). -/

/-- The reference target's memory is in canonical form. -/
abbrev RefTarget.canonical (cfg : Params) (r : RefTarget) : Prop :=
  Memory.wf (unlisted cfg r.flashSize) r.mem = true

theorem RefTarget.store_canonical (cfg : Params) (r : RefTarget) (a v : Word) (h : r.canonical cfg) :
    (r.store cfg a v).canonical cfg := Memory.put_wf _ _ _ h

theorem RefTarget.erasePage_canonical (cfg : Params) (r : RefTarget) (a : Word) (h : r.canonical cfg) :
    (r.erasePage cfg a).canonical cfg := Memory.fill_wf _ _ _ h

theorem RefTarget.eraseMain_canonical (cfg : Params) (r : RefTarget) (h : r.canonical cfg) :
    (r.eraseMain cfg).canonical cfg := Memory.filter_wf _ _ h

theorem RefTarget.command_canonical (cfg : Params) (r : RefTarget) (v : Word) (h : r.canonical cfg) :
    (r.command cfg v).canonical cfg := by
  unfold RefTarget.command
  split_ifs
  all_goals first
    | exact h | exact r.erasePage_canonical cfg _ h | exact r.eraseMain_canonical cfg h
    | exact r.store_canonical cfg _ _ h

theorem RefTarget.mscEffect_canonical (cfg : Params) (r : RefTarget) (a v : Word) (h : r.canonical cfg) :
    (r.mscEffect cfg a v).canonical cfg := by
  unfold RefTarget.mscEffect
  split_ifs
  all_goals first | exact h | exact r.command_canonical cfg v h

theorem RefTarget.write_canonical (cfg : Params) (r : RefTarget) (port : Port) (a : BitVec 2) (v : Word)
    (h : r.canonical cfg) : (r.write cfg port a v).canonical cfg := by
  unfold RefTarget.write
  split <;> split_ifs
  all_goals first | exact h | exact RefTarget.mscEffect_canonical _ _ _ _ (r.store_canonical cfg _ _ h)

/-- No transaction spoils the canonical form. -/
theorem RefTarget.respond_canonical (cfg : Params) (r : RefTarget) (port : Port) (rnw : Bool) (a : BitVec 2)
    (v : Word) (h : r.canonical cfg) : (r.respond cfg port rnw a v).2.canonical cfg := by
  have h' : ({ r with inject := r.inject.tail } : RefTarget).canonical cfg := h
  simp only [RefTarget.respond]
  split_ifs
  · split <;> exact h'
  · exact RefTarget.write_canonical _ _ _ _ _ h'
  · exact h'

end Sys2Proof.Machine
end

