-- ==== Sys2Proof/Laws/State.lean ====
section
/-!
SUPPORT. What each update of the state does to each field: one theorem per update, one conjunct per field, each true by
rfl, so that no later proof unfolds a record update.
-/

namespace Sys2Proof.Machine

@[simp] theorem emit_fields (e : PinEvent) (s : State) :
    (emit e s).cfg = s.cfg
    ∧ (emit e s).swclk = s.swclk
    ∧ (emit e s).dioDir = s.dioDir
    ∧ (emit e s).dioOut = s.dioOut
    ∧ (emit e s).nreset = s.nreset
    ∧ (emit e s).led = s.led
    ∧ (emit e s).cmd = s.cmd
    ∧ (emit e s).stepCount = s.stepCount + 1
    ∧ (emit e s).ack = s.ack
    ∧ (emit e s).rdata = s.rdata
    ∧ (emit e s).rparity = s.rparity
    ∧ (emit e s).reqParity = s.reqParity
    ∧ (emit e s).timeUs = s.timeUs
    ∧ (emit e s).session = s.session
    ∧ (emit e s).status = s.status
    ∧ (emit e s).progress = s.progress
    ∧ (emit e s).runActive = s.runActive
    ∧ (emit e s).errCount = s.errCount
    ∧ (emit e s).index = s.index
    ∧ (emit e s).evRev = e :: s.evRev
    ∧ (emit e s).note = s.note
    ∧ (emit e s).ledLastMs = s.ledLastMs
    ∧ (emit e s).pressPending = s.pressPending
    ∧ (emit e s).pressMs = s.pressMs
    ∧ (emit e s).lastError = s.lastError
    ∧ (emit e s).cmdWord = s.cmdWord
    ∧ (emit e s).argAddr = s.argAddr
    ∧ (emit e s).argData = s.argData
    ∧ (emit e s).argLen = s.argLen
    ∧ (emit e s).image = s.image
    ∧ (emit e s).resKind = s.resKind
    ∧ (emit e s).resData = s.resData
    ∧ (emit e s).resAck = s.resAck
    ∧ (emit e s).faults = s.faults
    ∧ (emit e s).host = s.host
    ∧ (emit e s).answers = s.answers
    ∧ (emit e s).target = s.target
    ∧ (emit e s).freeDraws = s.freeDraws := by
  refine ⟨rfl, rfl, rfl, rfl, rfl, rfl, rfl, rfl, rfl, rfl, rfl, rfl, rfl, rfl, rfl, rfl, rfl, rfl, rfl, rfl, rfl,
    rfl, rfl, rfl, rfl, rfl, rfl, rfl, rfl, rfl, rfl, rfl, rfl, rfl, rfl, rfl, rfl, rfl⟩

@[simp] theorem setClk_fields (v : Bool) (s : State) :
    (setClk v s).cfg = s.cfg
    ∧ (setClk v s).swclk = v
    ∧ (setClk v s).dioDir = s.dioDir
    ∧ (setClk v s).dioOut = s.dioOut
    ∧ (setClk v s).nreset = s.nreset
    ∧ (setClk v s).led = s.led
    ∧ (setClk v s).cmd = s.cmd
    ∧ (setClk v s).stepCount = s.stepCount + 1
    ∧ (setClk v s).ack = s.ack
    ∧ (setClk v s).rdata = s.rdata
    ∧ (setClk v s).rparity = s.rparity
    ∧ (setClk v s).reqParity = s.reqParity
    ∧ (setClk v s).timeUs = s.timeUs
    ∧ (setClk v s).session = s.session
    ∧ (setClk v s).status = s.status
    ∧ (setClk v s).progress = s.progress
    ∧ (setClk v s).runActive = s.runActive
    ∧ (setClk v s).errCount = s.errCount
    ∧ (setClk v s).index = s.index
    ∧ (setClk v s).evRev = .setClk v :: s.evRev
    ∧ (setClk v s).note = s.note
    ∧ (setClk v s).ledLastMs = s.ledLastMs
    ∧ (setClk v s).pressPending = s.pressPending
    ∧ (setClk v s).pressMs = s.pressMs
    ∧ (setClk v s).lastError = s.lastError
    ∧ (setClk v s).cmdWord = s.cmdWord
    ∧ (setClk v s).argAddr = s.argAddr
    ∧ (setClk v s).argData = s.argData
    ∧ (setClk v s).argLen = s.argLen
    ∧ (setClk v s).image = s.image
    ∧ (setClk v s).resKind = s.resKind
    ∧ (setClk v s).resData = s.resData
    ∧ (setClk v s).resAck = s.resAck
    ∧ (setClk v s).faults = s.faults
    ∧ (setClk v s).host = s.host
    ∧ (setClk v s).answers = s.answers
    ∧ (setClk v s).target = s.target
    ∧ (setClk v s).freeDraws = s.freeDraws := by
  refine ⟨rfl, rfl, rfl, rfl, rfl, rfl, rfl, rfl, rfl, rfl, rfl, rfl, rfl, rfl, rfl, rfl, rfl, rfl, rfl, rfl, rfl,
    rfl, rfl, rfl, rfl, rfl, rfl, rfl, rfl, rfl, rfl, rfl, rfl, rfl, rfl, rfl, rfl, rfl⟩

@[simp] theorem setDio_fields (v : Bool) (s : State) :
    (setDio v s).cfg = s.cfg
    ∧ (setDio v s).swclk = s.swclk
    ∧ (setDio v s).dioDir = s.dioDir
    ∧ (setDio v s).dioOut = v
    ∧ (setDio v s).nreset = s.nreset
    ∧ (setDio v s).led = s.led
    ∧ (setDio v s).cmd = s.cmd
    ∧ (setDio v s).stepCount = s.stepCount + 1
    ∧ (setDio v s).ack = s.ack
    ∧ (setDio v s).rdata = s.rdata
    ∧ (setDio v s).rparity = s.rparity
    ∧ (setDio v s).reqParity = s.reqParity
    ∧ (setDio v s).timeUs = s.timeUs
    ∧ (setDio v s).session = s.session
    ∧ (setDio v s).status = s.status
    ∧ (setDio v s).progress = s.progress
    ∧ (setDio v s).runActive = s.runActive
    ∧ (setDio v s).errCount = s.errCount
    ∧ (setDio v s).index = s.index
    ∧ (setDio v s).evRev = .setDio v :: s.evRev
    ∧ (setDio v s).note = s.note
    ∧ (setDio v s).ledLastMs = s.ledLastMs
    ∧ (setDio v s).pressPending = s.pressPending
    ∧ (setDio v s).pressMs = s.pressMs
    ∧ (setDio v s).lastError = s.lastError
    ∧ (setDio v s).cmdWord = s.cmdWord
    ∧ (setDio v s).argAddr = s.argAddr
    ∧ (setDio v s).argData = s.argData
    ∧ (setDio v s).argLen = s.argLen
    ∧ (setDio v s).image = s.image
    ∧ (setDio v s).resKind = s.resKind
    ∧ (setDio v s).resData = s.resData
    ∧ (setDio v s).resAck = s.resAck
    ∧ (setDio v s).faults = s.faults
    ∧ (setDio v s).host = s.host
    ∧ (setDio v s).answers = s.answers
    ∧ (setDio v s).target = s.target
    ∧ (setDio v s).freeDraws = s.freeDraws := by
  refine ⟨rfl, rfl, rfl, rfl, rfl, rfl, rfl, rfl, rfl, rfl, rfl, rfl, rfl, rfl, rfl, rfl, rfl, rfl, rfl, rfl, rfl,
    rfl, rfl, rfl, rfl, rfl, rfl, rfl, rfl, rfl, rfl, rfl, rfl, rfl, rfl, rfl, rfl, rfl⟩

@[simp] theorem setDir_fields (d : Dir) (s : State) :
    (setDir d s).cfg = s.cfg
    ∧ (setDir d s).swclk = s.swclk
    ∧ (setDir d s).dioDir = d
    ∧ (setDir d s).dioOut = s.dioOut
    ∧ (setDir d s).nreset = s.nreset
    ∧ (setDir d s).led = s.led
    ∧ (setDir d s).cmd = s.cmd
    ∧ (setDir d s).stepCount = s.stepCount + 1
    ∧ (setDir d s).ack = s.ack
    ∧ (setDir d s).rdata = s.rdata
    ∧ (setDir d s).rparity = s.rparity
    ∧ (setDir d s).reqParity = s.reqParity
    ∧ (setDir d s).timeUs = s.timeUs
    ∧ (setDir d s).session = s.session
    ∧ (setDir d s).status = s.status
    ∧ (setDir d s).progress = s.progress
    ∧ (setDir d s).runActive = s.runActive
    ∧ (setDir d s).errCount = s.errCount
    ∧ (setDir d s).index = s.index
    ∧ (setDir d s).evRev = .setDir d :: s.evRev
    ∧ (setDir d s).note = s.note
    ∧ (setDir d s).ledLastMs = s.ledLastMs
    ∧ (setDir d s).pressPending = s.pressPending
    ∧ (setDir d s).pressMs = s.pressMs
    ∧ (setDir d s).lastError = s.lastError
    ∧ (setDir d s).cmdWord = s.cmdWord
    ∧ (setDir d s).argAddr = s.argAddr
    ∧ (setDir d s).argData = s.argData
    ∧ (setDir d s).argLen = s.argLen
    ∧ (setDir d s).image = s.image
    ∧ (setDir d s).resKind = s.resKind
    ∧ (setDir d s).resData = s.resData
    ∧ (setDir d s).resAck = s.resAck
    ∧ (setDir d s).faults = s.faults
    ∧ (setDir d s).host = s.host
    ∧ (setDir d s).answers = s.answers
    ∧ (setDir d s).target = s.target
    ∧ (setDir d s).freeDraws = s.freeDraws := by
  refine ⟨rfl, rfl, rfl, rfl, rfl, rfl, rfl, rfl, rfl, rfl, rfl, rfl, rfl, rfl, rfl, rfl, rfl, rfl, rfl, rfl, rfl,
    rfl, rfl, rfl, rfl, rfl, rfl, rfl, rfl, rfl, rfl, rfl, rfl, rfl, rfl, rfl, rfl, rfl⟩

@[simp] theorem setRst_fields (v : Bool) (s : State) :
    (setRst v s).cfg = s.cfg
    ∧ (setRst v s).swclk = s.swclk
    ∧ (setRst v s).dioDir = s.dioDir
    ∧ (setRst v s).dioOut = s.dioOut
    ∧ (setRst v s).nreset = v
    ∧ (setRst v s).led = s.led
    ∧ (setRst v s).cmd = s.cmd
    ∧ (setRst v s).stepCount = s.stepCount + 1
    ∧ (setRst v s).ack = s.ack
    ∧ (setRst v s).rdata = s.rdata
    ∧ (setRst v s).rparity = s.rparity
    ∧ (setRst v s).reqParity = s.reqParity
    ∧ (setRst v s).timeUs = s.timeUs
    ∧ (setRst v s).session = s.session
    ∧ (setRst v s).status = s.status
    ∧ (setRst v s).progress = s.progress
    ∧ (setRst v s).runActive = s.runActive
    ∧ (setRst v s).errCount = s.errCount
    ∧ (setRst v s).index = s.index
    ∧ (setRst v s).evRev = .setRst v :: s.evRev
    ∧ (setRst v s).note = s.note
    ∧ (setRst v s).ledLastMs = s.ledLastMs
    ∧ (setRst v s).pressPending = s.pressPending
    ∧ (setRst v s).pressMs = s.pressMs
    ∧ (setRst v s).lastError = s.lastError
    ∧ (setRst v s).cmdWord = s.cmdWord
    ∧ (setRst v s).argAddr = s.argAddr
    ∧ (setRst v s).argData = s.argData
    ∧ (setRst v s).argLen = s.argLen
    ∧ (setRst v s).image = s.image
    ∧ (setRst v s).resKind = s.resKind
    ∧ (setRst v s).resData = s.resData
    ∧ (setRst v s).resAck = s.resAck
    ∧ (setRst v s).faults = s.faults
    ∧ (setRst v s).host = s.host
    ∧ (setRst v s).answers = s.answers
    ∧ (setRst v s).target = s.target
    ∧ (setRst v s).freeDraws = s.freeDraws := by
  refine ⟨rfl, rfl, rfl, rfl, rfl, rfl, rfl, rfl, rfl, rfl, rfl, rfl, rfl, rfl, rfl, rfl, rfl, rfl, rfl, rfl, rfl,
    rfl, rfl, rfl, rfl, rfl, rfl, rfl, rfl, rfl, rfl, rfl, rfl, rfl, rfl, rfl, rfl, rfl⟩

@[simp] theorem delay_fields (us : Nat) (s : State) :
    (delay us s).cfg = s.cfg
    ∧ (delay us s).swclk = s.swclk
    ∧ (delay us s).dioDir = s.dioDir
    ∧ (delay us s).dioOut = s.dioOut
    ∧ (delay us s).nreset = s.nreset
    ∧ (delay us s).led = s.led
    ∧ (delay us s).cmd = s.cmd
    ∧ (delay us s).stepCount = s.stepCount + 1
    ∧ (delay us s).ack = s.ack
    ∧ (delay us s).rdata = s.rdata
    ∧ (delay us s).rparity = s.rparity
    ∧ (delay us s).reqParity = s.reqParity
    ∧ (delay us s).timeUs = s.timeUs + us
    ∧ (delay us s).session = s.session
    ∧ (delay us s).status = s.status
    ∧ (delay us s).progress = s.progress
    ∧ (delay us s).runActive = s.runActive
    ∧ (delay us s).errCount = s.errCount
    ∧ (delay us s).index = s.index
    ∧ (delay us s).evRev = .delay us :: s.evRev
    ∧ (delay us s).note = s.note
    ∧ (delay us s).ledLastMs = s.ledLastMs
    ∧ (delay us s).pressPending = s.pressPending
    ∧ (delay us s).pressMs = s.pressMs
    ∧ (delay us s).lastError = s.lastError
    ∧ (delay us s).cmdWord = s.cmdWord
    ∧ (delay us s).argAddr = s.argAddr
    ∧ (delay us s).argData = s.argData
    ∧ (delay us s).argLen = s.argLen
    ∧ (delay us s).image = s.image
    ∧ (delay us s).resKind = s.resKind
    ∧ (delay us s).resData = s.resData
    ∧ (delay us s).resAck = s.resAck
    ∧ (delay us s).faults = s.faults
    ∧ (delay us s).host = s.host
    ∧ (delay us s).answers = s.answers
    ∧ (delay us s).target = s.target
    ∧ (delay us s).freeDraws = s.freeDraws := by
  refine ⟨rfl, rfl, rfl, rfl, rfl, rfl, rfl, rfl, rfl, rfl, rfl, rfl, rfl, rfl, rfl, rfl, rfl, rfl, rfl, rfl, rfl,
    rfl, rfl, rfl, rfl, rfl, rfl, rfl, rfl, rfl, rfl, rfl, rfl, rfl, rfl, rfl, rfl, rfl⟩

@[simp] theorem sampleDio_fields (s : State) :
    (sampleDio s).2.cfg = s.cfg
    ∧ (sampleDio s).2.swclk = s.swclk
    ∧ (sampleDio s).2.dioDir = s.dioDir
    ∧ (sampleDio s).2.dioOut = s.dioOut
    ∧ (sampleDio s).2.nreset = s.nreset
    ∧ (sampleDio s).2.led = s.led
    ∧ (sampleDio s).2.cmd = s.cmd
    ∧ (sampleDio s).2.stepCount = s.stepCount + 1
    ∧ (sampleDio s).2.ack = s.ack
    ∧ (sampleDio s).2.rdata = s.rdata
    ∧ (sampleDio s).2.rparity = s.rparity
    ∧ (sampleDio s).2.reqParity = s.reqParity
    ∧ (sampleDio s).2.timeUs = s.timeUs
    ∧ (sampleDio s).2.session = s.session
    ∧ (sampleDio s).2.status = s.status
    ∧ (sampleDio s).2.progress = s.progress
    ∧ (sampleDio s).2.runActive = s.runActive
    ∧ (sampleDio s).2.errCount = s.errCount
    ∧ (sampleDio s).2.index = s.index
    ∧ (sampleDio s).2.evRev = .sampleDio (draw s) :: s.evRev
    ∧ (sampleDio s).2.note = s.note
    ∧ (sampleDio s).2.ledLastMs = s.ledLastMs
    ∧ (sampleDio s).2.pressPending = s.pressPending
    ∧ (sampleDio s).2.pressMs = s.pressMs
    ∧ (sampleDio s).2.lastError = s.lastError
    ∧ (sampleDio s).2.cmdWord = s.cmdWord
    ∧ (sampleDio s).2.argAddr = s.argAddr
    ∧ (sampleDio s).2.argData = s.argData
    ∧ (sampleDio s).2.argLen = s.argLen
    ∧ (sampleDio s).2.image = s.image
    ∧ (sampleDio s).2.resKind = s.resKind
    ∧ (sampleDio s).2.resData = s.resData
    ∧ (sampleDio s).2.resAck = s.resAck
    ∧ (sampleDio s).2.faults = s.faults
    ∧ (sampleDio s).2.host = s.host
    ∧ (sampleDio s).2.answers = s.answers.tail
    ∧ (sampleDio s).2.target = s.target
    ∧ (sampleDio s).2.freeDraws = s.freeDraws := by
  refine ⟨rfl, rfl, rfl, rfl, rfl, rfl, rfl, rfl, rfl, rfl, rfl, rfl, rfl, rfl, rfl, rfl, rfl, rfl, rfl, rfl, rfl,
    rfl, rfl, rfl, rfl, rfl, rfl, rfl, rfl, rfl, rfl, rfl, rfl, rfl, rfl, rfl, rfl, rfl⟩

@[simp] theorem setStatus_fields (v : Status) (s : State) :
    (setStatus v s).cfg = s.cfg
    ∧ (setStatus v s).swclk = s.swclk
    ∧ (setStatus v s).dioDir = s.dioDir
    ∧ (setStatus v s).dioOut = s.dioOut
    ∧ (setStatus v s).nreset = s.nreset
    ∧ (setStatus v s).led = s.led
    ∧ (setStatus v s).cmd = s.cmd
    ∧ (setStatus v s).stepCount = s.stepCount
    ∧ (setStatus v s).ack = s.ack
    ∧ (setStatus v s).rdata = s.rdata
    ∧ (setStatus v s).rparity = s.rparity
    ∧ (setStatus v s).reqParity = s.reqParity
    ∧ (setStatus v s).timeUs = s.timeUs
    ∧ (setStatus v s).session = s.session
    ∧ (setStatus v s).status = v
    ∧ (setStatus v s).progress = s.progress
    ∧ (setStatus v s).runActive = s.runActive
    ∧ (setStatus v s).errCount = s.errCount
    ∧ (setStatus v s).index = s.index
    ∧ (setStatus v s).evRev = s.evRev
    ∧ (setStatus v s).note = s.note ++ [.status v]
    ∧ (setStatus v s).ledLastMs = s.ledLastMs
    ∧ (setStatus v s).pressPending = s.pressPending
    ∧ (setStatus v s).pressMs = s.pressMs
    ∧ (setStatus v s).lastError = s.lastError
    ∧ (setStatus v s).cmdWord = s.cmdWord
    ∧ (setStatus v s).argAddr = s.argAddr
    ∧ (setStatus v s).argData = s.argData
    ∧ (setStatus v s).argLen = s.argLen
    ∧ (setStatus v s).image = s.image
    ∧ (setStatus v s).resKind = s.resKind
    ∧ (setStatus v s).resData = s.resData
    ∧ (setStatus v s).resAck = s.resAck
    ∧ (setStatus v s).faults = s.faults
    ∧ (setStatus v s).host = s.host
    ∧ (setStatus v s).answers = s.answers
    ∧ (setStatus v s).target = s.target
    ∧ (setStatus v s).freeDraws = s.freeDraws := by
  refine ⟨rfl, rfl, rfl, rfl, rfl, rfl, rfl, rfl, rfl, rfl, rfl, rfl, rfl, rfl, rfl, rfl, rfl, rfl, rfl, rfl, rfl,
    rfl, rfl, rfl, rfl, rfl, rfl, rfl, rfl, rfl, rfl, rfl, rfl, rfl, rfl, rfl, rfl, rfl⟩

@[simp] theorem setProgress_fields (p : Nat) (s : State) :
    (setProgress p s).cfg = s.cfg
    ∧ (setProgress p s).swclk = s.swclk
    ∧ (setProgress p s).dioDir = s.dioDir
    ∧ (setProgress p s).dioOut = s.dioOut
    ∧ (setProgress p s).nreset = s.nreset
    ∧ (setProgress p s).led = s.led
    ∧ (setProgress p s).cmd = s.cmd
    ∧ (setProgress p s).stepCount = s.stepCount
    ∧ (setProgress p s).ack = s.ack
    ∧ (setProgress p s).rdata = s.rdata
    ∧ (setProgress p s).rparity = s.rparity
    ∧ (setProgress p s).reqParity = s.reqParity
    ∧ (setProgress p s).timeUs = s.timeUs
    ∧ (setProgress p s).session = s.session
    ∧ (setProgress p s).status = s.status
    ∧ (setProgress p s).progress = p
    ∧ (setProgress p s).runActive = s.runActive
    ∧ (setProgress p s).errCount = s.errCount
    ∧ (setProgress p s).index = s.index
    ∧ (setProgress p s).evRev = s.evRev
    ∧ (setProgress p s).note = (if p = s.progress then s.note else s.note ++ [.progress p])
    ∧ (setProgress p s).ledLastMs = s.ledLastMs
    ∧ (setProgress p s).pressPending = s.pressPending
    ∧ (setProgress p s).pressMs = s.pressMs
    ∧ (setProgress p s).lastError = s.lastError
    ∧ (setProgress p s).cmdWord = s.cmdWord
    ∧ (setProgress p s).argAddr = s.argAddr
    ∧ (setProgress p s).argData = s.argData
    ∧ (setProgress p s).argLen = s.argLen
    ∧ (setProgress p s).image = s.image
    ∧ (setProgress p s).resKind = s.resKind
    ∧ (setProgress p s).resData = s.resData
    ∧ (setProgress p s).resAck = s.resAck
    ∧ (setProgress p s).faults = s.faults
    ∧ (setProgress p s).host = s.host
    ∧ (setProgress p s).answers = s.answers
    ∧ (setProgress p s).target = s.target
    ∧ (setProgress p s).freeDraws = s.freeDraws := by
  refine ⟨rfl, rfl, rfl, rfl, rfl, rfl, rfl, rfl, rfl, rfl, rfl, rfl, rfl, rfl, rfl, rfl, rfl, rfl, rfl, rfl, rfl,
    rfl, rfl, rfl, rfl, rfl, rfl, rfl, rfl, rfl, rfl, rfl, rfl, rfl, rfl, rfl, rfl, rfl⟩

@[simp] theorem updateSession_fields (f : Session → Session) (s : State) :
    (updateSession f s).cfg = s.cfg
    ∧ (updateSession f s).swclk = s.swclk
    ∧ (updateSession f s).dioDir = s.dioDir
    ∧ (updateSession f s).dioOut = s.dioOut
    ∧ (updateSession f s).nreset = s.nreset
    ∧ (updateSession f s).led = s.led
    ∧ (updateSession f s).cmd = s.cmd
    ∧ (updateSession f s).stepCount = s.stepCount
    ∧ (updateSession f s).ack = s.ack
    ∧ (updateSession f s).rdata = s.rdata
    ∧ (updateSession f s).rparity = s.rparity
    ∧ (updateSession f s).reqParity = s.reqParity
    ∧ (updateSession f s).timeUs = s.timeUs
    ∧ (updateSession f s).session = s.session.map f
    ∧ (updateSession f s).status = s.status
    ∧ (updateSession f s).progress = s.progress
    ∧ (updateSession f s).runActive = s.runActive
    ∧ (updateSession f s).errCount = s.errCount
    ∧ (updateSession f s).index = s.index
    ∧ (updateSession f s).evRev = s.evRev
    ∧ (updateSession f s).note = s.note
    ∧ (updateSession f s).ledLastMs = s.ledLastMs
    ∧ (updateSession f s).pressPending = s.pressPending
    ∧ (updateSession f s).pressMs = s.pressMs
    ∧ (updateSession f s).lastError = s.lastError
    ∧ (updateSession f s).cmdWord = s.cmdWord
    ∧ (updateSession f s).argAddr = s.argAddr
    ∧ (updateSession f s).argData = s.argData
    ∧ (updateSession f s).argLen = s.argLen
    ∧ (updateSession f s).image = s.image
    ∧ (updateSession f s).resKind = s.resKind
    ∧ (updateSession f s).resData = s.resData
    ∧ (updateSession f s).resAck = s.resAck
    ∧ (updateSession f s).faults = s.faults
    ∧ (updateSession f s).host = s.host
    ∧ (updateSession f s).answers = s.answers
    ∧ (updateSession f s).target = s.target
    ∧ (updateSession f s).freeDraws = s.freeDraws := by
  refine ⟨rfl, rfl, rfl, rfl, rfl, rfl, rfl, rfl, rfl, rfl, rfl, rfl, rfl, rfl, rfl, rfl, rfl, rfl, rfl, rfl, rfl,
    rfl, rfl, rfl, rfl, rfl, rfl, rfl, rfl, rfl, rfl, rfl, rfl, rfl, rfl, rfl, rfl, rfl⟩

@[simp] theorem ensureSession_fields (s : State) :
    (ensureSession s).cfg = s.cfg
    ∧ (ensureSession s).swclk = s.swclk
    ∧ (ensureSession s).dioDir = s.dioDir
    ∧ (ensureSession s).dioOut = s.dioOut
    ∧ (ensureSession s).nreset = s.nreset
    ∧ (ensureSession s).led = s.led
    ∧ (ensureSession s).cmd = s.cmd
    ∧ (ensureSession s).stepCount = s.stepCount
    ∧ (ensureSession s).ack = s.ack
    ∧ (ensureSession s).rdata = s.rdata
    ∧ (ensureSession s).rparity = s.rparity
    ∧ (ensureSession s).reqParity = s.reqParity
    ∧ (ensureSession s).timeUs = s.timeUs
    ∧ (ensureSession s).session = some (s.session.getD .fresh)
    ∧ (ensureSession s).status = s.status
    ∧ (ensureSession s).progress = s.progress
    ∧ (ensureSession s).runActive = s.runActive
    ∧ (ensureSession s).errCount = s.errCount
    ∧ (ensureSession s).index = s.index
    ∧ (ensureSession s).evRev = s.evRev
    ∧ (ensureSession s).note = s.note
    ∧ (ensureSession s).ledLastMs = s.ledLastMs
    ∧ (ensureSession s).pressPending = s.pressPending
    ∧ (ensureSession s).pressMs = s.pressMs
    ∧ (ensureSession s).lastError = s.lastError
    ∧ (ensureSession s).cmdWord = s.cmdWord
    ∧ (ensureSession s).argAddr = s.argAddr
    ∧ (ensureSession s).argData = s.argData
    ∧ (ensureSession s).argLen = s.argLen
    ∧ (ensureSession s).image = s.image
    ∧ (ensureSession s).resKind = s.resKind
    ∧ (ensureSession s).resData = s.resData
    ∧ (ensureSession s).resAck = s.resAck
    ∧ (ensureSession s).faults = s.faults
    ∧ (ensureSession s).host = s.host
    ∧ (ensureSession s).answers = s.answers
    ∧ (ensureSession s).target = s.target
    ∧ (ensureSession s).freeDraws = s.freeDraws := by
  refine ⟨rfl, rfl, rfl, rfl, rfl, rfl, rfl, rfl, rfl, rfl, rfl, rfl, rfl, rfl, rfl, rfl, rfl, rfl, rfl, rfl, rfl,
    rfl, rfl, rfl, rfl, rfl, rfl, rfl, rfl, rfl, rfl, rfl, rfl, rfl, rfl, rfl, rfl, rfl⟩

@[simp] theorem noteImageRead_fields (len : Word) (k : Nat) (s : State) :
    (noteImageRead len k s).cfg = s.cfg
    ∧ (noteImageRead len k s).swclk = s.swclk
    ∧ (noteImageRead len k s).dioDir = s.dioDir
    ∧ (noteImageRead len k s).dioOut = s.dioOut
    ∧ (noteImageRead len k s).nreset = s.nreset
    ∧ (noteImageRead len k s).led = s.led
    ∧ (noteImageRead len k s).cmd = s.cmd
    ∧ (noteImageRead len k s).stepCount = s.stepCount
    ∧ (noteImageRead len k s).ack = s.ack
    ∧ (noteImageRead len k s).rdata = s.rdata
    ∧ (noteImageRead len k s).rparity = s.rparity
    ∧ (noteImageRead len k s).reqParity = s.reqParity
    ∧ (noteImageRead len k s).timeUs = s.timeUs
    ∧ (noteImageRead len k s).session = s.session
    ∧ (noteImageRead len k s).status = s.status
    ∧ (noteImageRead len k s).progress = s.progress
    ∧ (noteImageRead len k s).runActive = s.runActive
    ∧ (noteImageRead len k s).errCount = s.errCount
    ∧ (noteImageRead len k s).index = s.index
    ∧ (noteImageRead len k s).evRev = s.evRev
    ∧ (noteImageRead len k s).note = s.note
    ∧ (noteImageRead len k s).ledLastMs = s.ledLastMs
    ∧ (noteImageRead len k s).pressPending = s.pressPending
    ∧ (noteImageRead len k s).pressMs = s.pressMs
    ∧ (noteImageRead len k s).lastError = s.lastError
    ∧ (noteImageRead len k s).cmdWord = s.cmdWord
    ∧ (noteImageRead len k s).argAddr = s.argAddr
    ∧ (noteImageRead len k s).argData = s.argData
    ∧ (noteImageRead len k s).argLen = s.argLen
    ∧ (noteImageRead len k s).image = s.image
    ∧ (noteImageRead len k s).resKind = s.resKind
    ∧ (noteImageRead len k s).resData = s.resData
    ∧ (noteImageRead len k s).resAck = s.resAck
    ∧ (noteImageRead len k s).faults
      = (if readsPastImage s.image len.toNat k then recorded .imageShort s.faults else s.faults)
    ∧ (noteImageRead len k s).host = s.host
    ∧ (noteImageRead len k s).answers = s.answers
    ∧ (noteImageRead len k s).target = s.target
    ∧ (noteImageRead len k s).freeDraws = s.freeDraws := by
  refine ⟨rfl, rfl, rfl, rfl, rfl, rfl, rfl, rfl, rfl, rfl, rfl, rfl, rfl, rfl, rfl, rfl, rfl, rfl, rfl, rfl, rfl,
    rfl, rfl, rfl, rfl, rfl, rfl, rfl, rfl, rfl, rfl, rfl, rfl, rfl, rfl, rfl, rfl, rfl⟩

@[simp] theorem scrambleCounters_fields (s : State) :
    (scrambleCounters s).cfg = s.cfg
    ∧ (scrambleCounters s).swclk = s.swclk
    ∧ (scrambleCounters s).dioDir = s.dioDir
    ∧ (scrambleCounters s).dioOut = s.dioOut
    ∧ (scrambleCounters s).nreset = s.nreset
    ∧ (scrambleCounters s).led = s.led
    ∧ (scrambleCounters s).cmd = s.cmd
    ∧ (scrambleCounters s).stepCount = s.stepCount
    ∧ (scrambleCounters s).ack = s.ack
    ∧ (scrambleCounters s).rdata = s.rdata
    ∧ (scrambleCounters s).rparity = s.rparity
    ∧ (scrambleCounters s).reqParity = s.reqParity
    ∧ (scrambleCounters s).timeUs = s.timeUs
    ∧ (scrambleCounters s).session = s.session
    ∧ (scrambleCounters s).status = s.status
    ∧ (scrambleCounters s).progress = s.progress
    ∧ (scrambleCounters s).runActive = s.runActive
    ∧ (scrambleCounters s).errCount = Config.freeErrCount s.freeDraws % (s.cfg.verifyMaxErr + 2)
    ∧ (scrambleCounters s).index = Config.freeIndex s.freeDraws
    ∧ (scrambleCounters s).evRev = s.evRev
    ∧ (scrambleCounters s).note = s.note
    ∧ (scrambleCounters s).ledLastMs = s.ledLastMs
    ∧ (scrambleCounters s).pressPending = s.pressPending
    ∧ (scrambleCounters s).pressMs = s.pressMs
    ∧ (scrambleCounters s).lastError = s.lastError
    ∧ (scrambleCounters s).cmdWord = s.cmdWord
    ∧ (scrambleCounters s).argAddr = s.argAddr
    ∧ (scrambleCounters s).argData = s.argData
    ∧ (scrambleCounters s).argLen = s.argLen
    ∧ (scrambleCounters s).image = s.image
    ∧ (scrambleCounters s).resKind = s.resKind
    ∧ (scrambleCounters s).resData = s.resData
    ∧ (scrambleCounters s).resAck = s.resAck
    ∧ (scrambleCounters s).faults = s.faults
    ∧ (scrambleCounters s).host = s.host
    ∧ (scrambleCounters s).answers = s.answers
    ∧ (scrambleCounters s).target = s.target
    ∧ (scrambleCounters s).freeDraws = s.freeDraws + 1 := by
  refine ⟨rfl, rfl, rfl, rfl, rfl, rfl, rfl, rfl, rfl, rfl, rfl, rfl, rfl, rfl, rfl, rfl, rfl, rfl, rfl, rfl, rfl,
    rfl, rfl, rfl, rfl, rfl, rfl, rfl, rfl, rfl, rfl, rfl, rfl, rfl, rfl, rfl, rfl, rfl⟩

@[simp] theorem beginCommand_fields (i : Instr) (s : State) :
    (beginCommand i s).cfg = s.cfg
    ∧ (beginCommand i s).swclk = s.swclk
    ∧ (beginCommand i s).dioDir = s.dioDir
    ∧ (beginCommand i s).dioOut = s.dioOut
    ∧ (beginCommand i s).nreset = s.nreset
    ∧ (beginCommand i s).led = s.led
    ∧ (beginCommand i s).cmd = some i
    ∧ (beginCommand i s).stepCount = 0
    ∧ (beginCommand i s).ack = s.ack
    ∧ (beginCommand i s).rdata = s.rdata
    ∧ (beginCommand i s).rparity = s.rparity
    ∧ (beginCommand i s).reqParity = s.reqParity
    ∧ (beginCommand i s).timeUs = s.timeUs
    ∧ (beginCommand i s).session = s.session
    ∧ (beginCommand i s).status = s.status
    ∧ (beginCommand i s).progress = s.progress
    ∧ (beginCommand i s).runActive = s.runActive
    ∧ (beginCommand i s).errCount = Config.freeErrCount s.freeDraws % (s.cfg.verifyMaxErr + 2)
    ∧ (beginCommand i s).index = Config.freeIndex s.freeDraws
    ∧ (beginCommand i s).evRev = s.evRev
    ∧ (beginCommand i s).note = s.note
    ∧ (beginCommand i s).ledLastMs = s.ledLastMs
    ∧ (beginCommand i s).pressPending = s.pressPending
    ∧ (beginCommand i s).pressMs = s.pressMs
    ∧ (beginCommand i s).lastError = s.lastError
    ∧ (beginCommand i s).cmdWord = s.cmdWord
    ∧ (beginCommand i s).argAddr = s.argAddr
    ∧ (beginCommand i s).argData = s.argData
    ∧ (beginCommand i s).argLen = s.argLen
    ∧ (beginCommand i s).image = s.image
    ∧ (beginCommand i s).resKind = s.resKind
    ∧ (beginCommand i s).resData = s.resData
    ∧ (beginCommand i s).resAck = s.resAck
    ∧ (beginCommand i s).faults = s.faults
    ∧ (beginCommand i s).host = s.host
    ∧ (beginCommand i s).answers = s.answers
    ∧ (beginCommand i s).target = s.target
    ∧ (beginCommand i s).freeDraws = s.freeDraws + 1 := by
  refine ⟨rfl, rfl, rfl, rfl, rfl, rfl, rfl, rfl, rfl, rfl, rfl, rfl, rfl, rfl, rfl, rfl, rfl, rfl, rfl, rfl, rfl,
    rfl, rfl, rfl, rfl, rfl, rfl, rfl, rfl, rfl, rfl, rfl, rfl, rfl, rfl, rfl, rfl, rfl⟩

@[simp] theorem endCommand_fields (s : State) :
    (endCommand s).cfg = s.cfg
    ∧ (endCommand s).swclk = s.swclk
    ∧ (endCommand s).dioDir = s.dioDir
    ∧ (endCommand s).dioOut = s.dioOut
    ∧ (endCommand s).nreset = s.nreset
    ∧ (endCommand s).led = s.led
    ∧ (endCommand s).cmd = none
    ∧ (endCommand s).stepCount = s.stepCount
    ∧ (endCommand s).ack = s.ack
    ∧ (endCommand s).rdata = s.rdata
    ∧ (endCommand s).rparity = s.rparity
    ∧ (endCommand s).reqParity = s.reqParity
    ∧ (endCommand s).timeUs = s.timeUs
    ∧ (endCommand s).session = s.session
    ∧ (endCommand s).status = s.status
    ∧ (endCommand s).progress = s.progress
    ∧ (endCommand s).runActive = s.runActive
    ∧ (endCommand s).errCount = (if leavesErrCount s then s.errCount else (scrambleCounters s).errCount)
    ∧ (endCommand s).index = (if leavesIndex s then s.index else (scrambleCounters s).index)
    ∧ (endCommand s).evRev = s.evRev
    ∧ (endCommand s).note = s.note
    ∧ (endCommand s).ledLastMs = s.ledLastMs
    ∧ (endCommand s).pressPending = s.pressPending
    ∧ (endCommand s).pressMs = s.pressMs
    ∧ (endCommand s).lastError = s.lastError
    ∧ (endCommand s).cmdWord = s.cmdWord
    ∧ (endCommand s).argAddr = s.argAddr
    ∧ (endCommand s).argData = s.argData
    ∧ (endCommand s).argLen = s.argLen
    ∧ (endCommand s).image = s.image
    ∧ (endCommand s).resKind = s.resKind
    ∧ (endCommand s).resData = s.resData
    ∧ (endCommand s).resAck = s.resAck
    ∧ (endCommand s).faults = s.faults
    ∧ (endCommand s).host = s.host
    ∧ (endCommand s).answers = s.answers
    ∧ (endCommand s).target = s.target
    ∧ (endCommand s).freeDraws = s.freeDraws + 1 := by
  refine ⟨rfl, rfl, rfl, rfl, rfl, rfl, rfl, rfl, rfl, rfl, rfl, rfl, rfl, rfl, rfl, rfl, rfl, rfl, rfl, rfl, rfl,
    rfl, rfl, rfl, rfl, rfl, rfl, rfl, rfl, rfl, rfl, rfl, rfl, rfl, rfl, rfl, rfl, rfl⟩

@[simp] theorem startWrite_fields (s : State) :
    (startWrite s).cfg = s.cfg
    ∧ (startWrite s).swclk = s.swclk
    ∧ (startWrite s).dioDir = s.dioDir
    ∧ (startWrite s).dioOut = s.dioOut
    ∧ (startWrite s).nreset = s.nreset
    ∧ (startWrite s).led = s.led
    ∧ (startWrite s).cmd = s.cmd
    ∧ (startWrite s).stepCount = s.stepCount
    ∧ (startWrite s).ack = s.ack
    ∧ (startWrite s).rdata = s.rdata
    ∧ (startWrite s).rparity = s.rparity
    ∧ (startWrite s).reqParity = s.reqParity
    ∧ (startWrite s).timeUs = s.timeUs
    ∧ (startWrite s).session = s.session
    ∧ (startWrite s).status = s.status
    ∧ (startWrite s).progress = s.cfg.pEraseEnd
    ∧ (startWrite s).runActive = s.runActive
    ∧ (startWrite s).errCount = s.errCount
    ∧ (startWrite s).index = Config.freeWriteIndex s.freeDraws
    ∧ (startWrite s).evRev = s.evRev
    ∧ (startWrite s).note = (if s.cfg.pEraseEnd = s.progress then s.note else s.note ++ [.progress s.cfg.pEraseEnd])
    ∧ (startWrite s).ledLastMs = s.ledLastMs
    ∧ (startWrite s).pressPending = s.pressPending
    ∧ (startWrite s).pressMs = s.pressMs
    ∧ (startWrite s).lastError = s.lastError
    ∧ (startWrite s).cmdWord = s.cmdWord
    ∧ (startWrite s).argAddr = s.argAddr
    ∧ (startWrite s).argData = s.argData
    ∧ (startWrite s).argLen = s.argLen
    ∧ (startWrite s).image = s.image
    ∧ (startWrite s).resKind = s.resKind
    ∧ (startWrite s).resData = s.resData
    ∧ (startWrite s).resAck = s.resAck
    ∧ (startWrite s).faults = s.faults
    ∧ (startWrite s).host = s.host
    ∧ (startWrite s).answers = s.answers
    ∧ (startWrite s).target = s.target
    ∧ (startWrite s).freeDraws = s.freeDraws := by
  refine ⟨rfl, rfl, rfl, rfl, rfl, rfl, rfl, rfl, rfl, rfl, rfl, rfl, rfl, rfl, rfl, rfl, rfl, rfl, rfl, rfl, rfl,
    rfl, rfl, rfl, rfl, rfl, rfl, rfl, rfl, rfl, rfl, rfl, rfl, rfl, rfl, rfl, rfl, rfl⟩

@[simp] theorem play_fields (evs : List PinEvent) (s : State) :
    (play evs s).cfg = s.cfg
    ∧ (play evs s).swclk = clkAfter s.swclk evs
    ∧ (play evs s).dioDir = dirAfter s.dioDir evs
    ∧ (play evs s).dioOut = dioAfter s.dioOut evs
    ∧ (play evs s).nreset = rstAfter s.nreset evs
    ∧ (play evs s).led = s.led
    ∧ (play evs s).cmd = s.cmd
    ∧ (play evs s).stepCount = s.stepCount + evs.length
    ∧ (play evs s).ack = s.ack
    ∧ (play evs s).rdata = s.rdata
    ∧ (play evs s).rparity = s.rparity
    ∧ (play evs s).reqParity = s.reqParity
    ∧ (play evs s).timeUs = s.timeUs + delayOf evs
    ∧ (play evs s).session = s.session
    ∧ (play evs s).status = s.status
    ∧ (play evs s).progress = s.progress
    ∧ (play evs s).runActive = s.runActive
    ∧ (play evs s).errCount = s.errCount
    ∧ (play evs s).index = s.index
    ∧ (play evs s).evRev = evs.reverse ++ s.evRev
    ∧ (play evs s).note = s.note
    ∧ (play evs s).ledLastMs = s.ledLastMs
    ∧ (play evs s).pressPending = s.pressPending
    ∧ (play evs s).pressMs = s.pressMs
    ∧ (play evs s).lastError = s.lastError
    ∧ (play evs s).cmdWord = s.cmdWord
    ∧ (play evs s).argAddr = s.argAddr
    ∧ (play evs s).argData = s.argData
    ∧ (play evs s).argLen = s.argLen
    ∧ (play evs s).image = s.image
    ∧ (play evs s).resKind = s.resKind
    ∧ (play evs s).resData = s.resData
    ∧ (play evs s).resAck = s.resAck
    ∧ (play evs s).faults = s.faults
    ∧ (play evs s).host = s.host
    ∧ (play evs s).answers = s.answers
    ∧ (play evs s).target = s.target
    ∧ (play evs s).freeDraws = s.freeDraws := by
  refine ⟨rfl, rfl, rfl, rfl, rfl, rfl, rfl, rfl, rfl, rfl, rfl, rfl, rfl, rfl, rfl, rfl, rfl, rfl, rfl, rfl, rfl,
    rfl, rfl, rfl, rfl, rfl, rfl, rfl, rfl, rfl, rfl, rfl, rfl, rfl, rfl, rfl, rfl, rfl⟩

/-! ### Recording a model fault (60_exceptions.md R345). -/

@[simp] theorem mem_recorded {f g : Fault} {fs : List Fault} : g ∈ recorded f fs ↔ g = f ∨ g ∈ fs := by
  unfold recorded
  split_ifs with h
  · exact ⟨.inr, fun hg => hg.elim (· ▸ h) id⟩
  · simp [or_comm]

@[simp] theorem recorded_recorded (f : Fault) (fs : List Fault) : recorded f (recorded f fs) = recorded f fs := by
  rw [recorded, if_pos (mem_recorded.2 (.inl rfl))]

/-- Observing a session field gives it and changes nothing where a rule has written it; elsewhere it records the
fault. -/
theorem readSession_cases {α : Type} (f : Session → Option α) (s : State) :
    (∃ v, s.session.bind f = some v ∧ readSession f s = (some v, s)) ∨
      s.session.bind f = none
        ∧ readSession f s = (none, { s with faults := recorded .sessionUnwritten s.faults }) := by
  unfold readSession
  cases s.session.bind f with
  | none => exact .inr ⟨rfl, rfl⟩
  | some v => exact .inl ⟨v, rfl, rfl⟩

/-! ### Notifications. -/

/-- The text of a notification has fewer than 64 characters (45_status_orchestrator.md R293). -/
theorem statusMessage_length (n : Note) : (statusMessage n).length < 64 := by
  simp only [statusMessage, String.length_ofList, List.length_take]
  omega

/-- Every message handed to the notification sink meets the bound. -/
theorem messages_length (s : State) : ∀ m ∈ s.messages, m.length < 64 := by
  simpa [State.messages] using fun n _ => statusMessage_length n

end Sys2Proof.Machine
end

