-- ==== Sys2Proof/Laws/Bits.lean ====
section
/-!
SUPPORT. Laws of the operand forms: bits in wire order, header bits, image words, counts.
-/

namespace Sys2Proof.Machine

@[simp] theorem bitsOfNat_length (n v : Nat) : (bitsOfNat n v).length = n := by simp [bitsOfNat]

@[simp] theorem bitsOf_length {n : Nat} (v : BitVec n) : (bitsOf v).length = n := by simp [bitsOf]

/-- The bits of a value in wire order, as the rules number them. -/
theorem bitsOf_eq_getLsbD {n : Nat} (v : BitVec n) : bitsOf v = (List.range n).map fun i => v.getLsbD i := by
  simp [bitsOf, bitsOfNat, BitVec.getLsbD]

theorem natOfBits_append (xs ys : List Bool) :
    natOfBits (xs ++ ys) = natOfBits xs + 2 ^ xs.length * natOfBits ys := by
  induction xs with
  | nil => simp [natOfBits]
  | cons b bs ih => simp only [List.cons_append, natOfBits, ih, List.length_cons, pow_succ]; ring

theorem bitsOfNat_succ (n v : Nat) : bitsOfNat (n + 1) v = bitsOfNat n v ++ [v.testBit n] := by
  simp [bitsOfNat, List.range_succ]

theorem natOfBits_bitsOfNat (n v : Nat) : natOfBits (bitsOfNat n v) = v % 2 ^ n := by
  induction n with
  | zero => simp [bitsOfNat, natOfBits, Nat.mod_one]
  | succ n ih =>
    rw [bitsOfNat_succ, natOfBits_append, ih, bitsOfNat_length, pow_succ, Nat.mod_mul]
    rcases hb : v.testBit n
    · have : v / 2 ^ n % 2 = 0 := by simpa [Nat.testBit, Nat.shiftRight_eq_div_pow, Nat.one_and_eq_mod_two] using hb
      simp [natOfBits, this]
    · have : v / 2 ^ n % 2 = 1 := by
        have := hb
        simp only [Nat.testBit, Nat.shiftRight_eq_div_pow, Nat.one_and_eq_mod_two] at this
        simpa using this
      simp [natOfBits, this]

/-- The value assembled from the bits of a value in wire order is that value. -/
@[simp] theorem ofBits_bitsOf {n : Nat} (v : BitVec n) : ofBits n (bitsOf v) = v := by
  apply BitVec.eq_of_toNat_eq
  simp [ofBits, bitsOf, natOfBits_bitsOfNat]

theorem natOfBits_lt (bs : List Bool) : natOfBits bs < 2 ^ bs.length := by
  induction bs with
  | nil => simp [natOfBits]
  | cons b bs ih => cases b <;> simp [natOfBits, pow_succ] <;> omega

theorem testBit_natOfBits (bs : List Bool) (i : Nat) : (natOfBits bs).testBit i = bs.getD i false := by
  induction bs generalizing i with
  | nil => simp [natOfBits]
  | cons b bs ih =>
    cases i with
    | zero => cases b <;> simp [natOfBits, Nat.testBit_zero]
    | succ i =>
      rw [Nat.testBit_succ]
      have : natOfBits (b :: bs) / 2 = natOfBits bs := by cases b <;> simp [natOfBits]; omega
      simp [this, ih]

/-- The i-th bit of an assembled value is the i-th bit that came. -/
theorem ofBits_getLsbD (n : Nat) (bs : List Bool) (i : Nat) (h : i < n) :
    (ofBits n bs).getLsbD i = bs.getD i false := by
  rw [ofBits, BitVec.getLsbD_ofNat, testBit_natOfBits, decide_eq_true h, Bool.true_and]

/-- The header has 7 bits in the DOC7 format and 8 in the ADIV5 format. -/
@[simp] theorem headerBits_length (f : ReqFormat) (port : Port) (rnw : Bool) (a : BitVec 2) :
    (headerBits f port rnw a).length = if f = .doc7 then 7 else 8 := by
  cases f <;> rfl

/-- An image byte below the length that the host supplied is the host's. -/
theorem readsPastImage_of_supplied (image : List Byte) (len k : Nat) (h : len ≤ image.length) :
    readsPastImage image len k = false := by
  simp only [readsPastImage, List.any_cons, List.any_nil, Bool.or_false, Bool.or_eq_false_iff,
    Bool.and_eq_false_iff, decide_eq_false_iff_not]
  omega

/-- Where the host supplied the bytes of an image word, no missing byte is in it. -/
theorem assembleWord_of_supplied (missing : Nat → Byte) (image : List Byte) (len k : Nat)
    (h : ∀ i < 4, 4 * k + i < len → 4 * k + i < image.length) : assembleWord missing image len k = wordOf image len k := by
  have hb : ∀ i < 4, imageByte missing image len (4 * k + i) = imageByte (fun _ => 0xFF) image len (4 * k + i) := by
    intro i hi
    unfold imageByte
    split_ifs with hl
    · simp [h i hi hl]
    · rfl
  have h₀ := hb 0 (by omega)
  rw [Nat.add_zero] at h₀
  simp only [wordOf, assembleWord, hb 1 (by omega), hb 2 (by omega), hb 3 (by omega), h₀]

/-- The image word a flash command reads, where the host supplied `ARG_LEN` bytes (44_flash.md R250). -/
theorem imageWord_of_supplied (len : Word) (k : Nat) (s : State) (h : len.toNat ≤ s.image.length) :
    imageWord len k s = wordOf s.image len.toNat k := assembleWord_of_supplied _ _ _ _ fun _ _ _ => by omega

theorem wordCount_eq (len : Word) : wordCount len = (len.toNat + 3) / 4 := rfl

end Sys2Proof.Machine
end

