-- ==== Sys2Proof/Laws/Lines.lean ====
section
/-!
SUPPORT. Laws of event lists: what they do to the lines one after another, and `play`, the state after them.
-/

namespace Sys2Proof.Machine

/-! ### Lists one after another. -/

@[simp] theorem clkAfter_append (v : Bool) (xs ys : List PinEvent) :
    clkAfter v (xs ++ ys) = clkAfter (clkAfter v xs) ys := by
  induction xs generalizing v with
  | nil => rfl
  | cons x xs ih => cases x <;> exact ih _

@[simp] theorem dioAfter_append (v : Bool) (xs ys : List PinEvent) :
    dioAfter v (xs ++ ys) = dioAfter (dioAfter v xs) ys := by
  induction xs generalizing v with
  | nil => rfl
  | cons x xs ih => cases x <;> exact ih _

@[simp] theorem dirAfter_append (d : Dir) (xs ys : List PinEvent) :
    dirAfter d (xs ++ ys) = dirAfter (dirAfter d xs) ys := by
  induction xs generalizing d with
  | nil => rfl
  | cons x xs ih => cases x <;> exact ih _

@[simp] theorem rstAfter_append (v : Bool) (xs ys : List PinEvent) :
    rstAfter v (xs ++ ys) = rstAfter (rstAfter v xs) ys := by
  induction xs generalizing v with
  | nil => rfl
  | cons x xs ih => cases x <;> exact ih _

@[simp] theorem delayOf_append (xs ys : List PinEvent) : delayOf (xs ++ ys) = delayOf xs + delayOf ys := by
  induction xs with
  | nil => simp [delayOf]
  | cons x xs ih => cases x <;> simp [delayOf, ih, Nat.add_assoc]

@[simp] theorem samplesOnlyInput_append (d : Dir) (xs ys : List PinEvent) :
    samplesOnlyInput d (xs ++ ys) = (samplesOnlyInput d xs && samplesOnlyInput (dirAfter d xs) ys) := by
  induction xs generalizing d with
  | nil => simp [samplesOnlyInput, dirAfter]
  | cons x xs ih => cases x <;> simp [samplesOnlyInput, dirAfter, ih, Bool.and_assoc]

@[simp] theorem cyclesIn_append (xs ys : List PinEvent) : cyclesIn (xs ++ ys) = cyclesIn xs + cyclesIn ys := by
  simp [cyclesIn]

/-! ### `play`. -/

@[simp] theorem play_nil (s : State) : play [] s = s := rfl

/-- Playing two lists is playing them one after the other. -/
theorem play_append (xs ys : List PinEvent) (s : State) : play (xs ++ ys) s = play ys (play xs s) := by
  simp [play, Nat.add_assoc, List.append_assoc]

theorem play_cons (x : PinEvent) (xs : List PinEvent) (s : State) : play (x :: xs) s = play xs (play [x] s) :=
  play_append [x] xs s

/-- The event history grows by the events played. -/
@[simp] theorem play_ev (xs : List PinEvent) (s : State) : (play xs s).ev = s.ev ++ xs := by
  simp [State.ev]

/-- The primitives are single events played. -/
theorem setClk_eq_play (v : Bool) (s : State) : setClk v s = play [.setClk v] s := rfl
theorem setDio_eq_play (v : Bool) (s : State) : setDio v s = play [.setDio v] s := rfl
theorem setDir_eq_play (d : Dir) (s : State) : setDir d s = play [.setDir d] s := rfl
theorem setRst_eq_play (v : Bool) (s : State) : setRst v s = play [.setRst v] s := rfl
theorem delay_eq_play (n : Nat) (s : State) : delay n s = play [.delay n] s := rfl
theorem halfDelay_eq_play (s : State) : halfDelay s = play [.delay s.cfg.tHalfUs] s := rfl

/-- A sample plays its event and takes one answer. -/
theorem sampleDio_eq_play (s : State) :
    sampleDio s = (draw s, { play [.sampleDio (draw s)] s with answers := s.answers.tail }) := rfl

/-! ### What the event lists of the rules do. -/

@[simp] theorem cyclesEv_length (T n : Nat) : (cyclesEv T n).length = 4 * n := by
  induction n with
  | zero => rfl
  | succ n ih => simp [cyclesEv, cycleEv, ih]; ring

@[simp] theorem cyclesIn_cyclesEv (T n : Nat) : cyclesIn (cyclesEv T n) = n := by
  induction n with
  | zero => rfl
  | succ n ih => simp [cyclesEv, ih]; simp [cyclesIn, cycleEv, Nat.add_comm]

@[simp] theorem delayOf_cyclesEv (T n : Nat) : delayOf (cyclesEv T n) = 2 * n * T := by
  induction n with
  | zero => simp [cyclesEv, delayOf]
  | succ n ih => simp [cyclesEv, ih, cycleEv, delayOf]; ring

@[simp] theorem clkAfter_cyclesEv (v : Bool) (T n : Nat) :
    clkAfter v (cyclesEv T n) = if n = 0 then v else true := by
  induction n generalizing v with
  | zero => rfl
  | succ n ih => simp [cyclesEv, cycleEv, clkAfter, ih]

@[simp] theorem dioAfter_cyclesEv (v : Bool) (T n : Nat) : dioAfter v (cyclesEv T n) = v := by
  induction n with
  | zero => rfl
  | succ n ih => simp [cyclesEv, cycleEv, dioAfter, ih]

@[simp] theorem dirAfter_cyclesEv (d : Dir) (T n : Nat) : dirAfter d (cyclesEv T n) = d := by
  induction n with
  | zero => rfl
  | succ n ih => simp [cyclesEv, cycleEv, dirAfter, ih]

@[simp] theorem rstAfter_cyclesEv (v : Bool) (T n : Nat) : rstAfter v (cyclesEv T n) = v := by
  induction n with
  | zero => rfl
  | succ n ih => simp [cyclesEv, cycleEv, rstAfter, ih]

@[simp] theorem samplesOnlyInput_cyclesEv (d : Dir) (T n : Nat) : samplesOnlyInput d (cyclesEv T n) = true := by
  induction n with
  | zero => rfl
  | succ n ih => simp [cyclesEv, cycleEv, samplesOnlyInput, ih]

theorem writeBitsEv_cons (T : Nat) (b : Bool) (bs : List Bool) :
    writeBitsEv T (b :: bs) = writeBitEv T b ++ writeBitsEv T bs := rfl

theorem writeBitsEv_append (T : Nat) (bs cs : List Bool) :
    writeBitsEv T (bs ++ cs) = writeBitsEv T bs ++ writeBitsEv T cs := by simp [writeBitsEv]

theorem readBitsEv_cons (T : Nat) (b : Bool) (bs : List Bool) :
    readBitsEv T (b :: bs) = readBitEv T b ++ readBitsEv T bs := rfl

theorem readBitsEv_append (T : Nat) (bs cs : List Bool) :
    readBitsEv T (bs ++ cs) = readBitsEv T bs ++ readBitsEv T cs := by simp [readBitsEv]

@[simp] theorem writeBitsEv_length (T : Nat) (bs : List Bool) : (writeBitsEv T bs).length = 6 * bs.length := by
  induction bs with
  | nil => rfl
  | cons b bs ih => simp [writeBitsEv_cons, writeBitEv, cycleEv, ih]; ring

@[simp] theorem readBitsEv_length (T : Nat) (bs : List Bool) : (readBitsEv T bs).length = 6 * bs.length := by
  induction bs with
  | nil => rfl
  | cons b bs ih => simp [readBitsEv_cons, readBitEv, ih]; ring

@[simp] theorem cyclesIn_writeBitsEv (T : Nat) (bs : List Bool) : cyclesIn (writeBitsEv T bs) = bs.length := by
  induction bs with
  | nil => rfl
  | cons b bs ih => simp [writeBitsEv_cons, ih]; simp [cyclesIn, writeBitEv, cycleEv, Nat.add_comm]

@[simp] theorem cyclesIn_readBitsEv (T : Nat) (bs : List Bool) : cyclesIn (readBitsEv T bs) = bs.length := by
  induction bs with
  | nil => rfl
  | cons b bs ih => simp [readBitsEv_cons, ih]; simp [cyclesIn, readBitEv, Nat.add_comm]

@[simp] theorem delayOf_writeBitsEv (T : Nat) (bs : List Bool) :
    delayOf (writeBitsEv T bs) = 2 * bs.length * T := by
  induction bs with
  | nil => simp [writeBitsEv, delayOf]
  | cons b bs ih => simp [writeBitsEv_cons, ih, writeBitEv, cycleEv, delayOf]; ring

@[simp] theorem delayOf_readBitsEv (T : Nat) (bs : List Bool) :
    delayOf (readBitsEv T bs) = 2 * bs.length * T := by
  induction bs with
  | nil => simp [readBitsEv, delayOf]
  | cons b bs ih => simp [readBitsEv_cons, ih, readBitEv, delayOf]; ring

@[simp] theorem clkAfter_writeBitsEv (v : Bool) (T : Nat) (bs : List Bool) :
    clkAfter v (writeBitsEv T bs) = if bs = [] then v else true := by
  induction bs generalizing v with
  | nil => rfl
  | cons b bs ih => simp [writeBitsEv_cons, writeBitEv, cycleEv, clkAfter, ih]

@[simp] theorem clkAfter_readBitsEv (v : Bool) (T : Nat) (bs : List Bool) :
    clkAfter v (readBitsEv T bs) = if bs = [] then v else true := by
  induction bs generalizing v with
  | nil => rfl
  | cons b bs ih => simp [readBitsEv_cons, readBitEv, clkAfter, ih]

@[simp] theorem dioAfter_writeBitsEv (v : Bool) (T : Nat) (bs : List Bool) :
    dioAfter v (writeBitsEv T bs) = bs.getLastD v := by
  induction bs generalizing v with
  | nil => rfl
  | cons b bs ih => simp [writeBitsEv_cons, writeBitEv, cycleEv, dioAfter, ih, List.getLast?_cons]

@[simp] theorem dioAfter_readBitsEv (v : Bool) (T : Nat) (bs : List Bool) : dioAfter v (readBitsEv T bs) = v := by
  induction bs with
  | nil => rfl
  | cons b bs ih => simp [readBitsEv_cons, readBitEv, dioAfter, ih]

@[simp] theorem dirAfter_writeBitsEv (d : Dir) (T : Nat) (bs : List Bool) :
    dirAfter d (writeBitsEv T bs) = if bs = [] then d else .output := by
  induction bs generalizing d with
  | nil => rfl
  | cons b bs ih => simp [writeBitsEv_cons, writeBitEv, cycleEv, dirAfter, ih]

@[simp] theorem dirAfter_readBitsEv (d : Dir) (T : Nat) (bs : List Bool) :
    dirAfter d (readBitsEv T bs) = if bs = [] then d else .input := by
  induction bs generalizing d with
  | nil => rfl
  | cons b bs ih => simp [readBitsEv_cons, readBitEv, dirAfter, ih]

@[simp] theorem rstAfter_writeBitsEv (v : Bool) (T : Nat) (bs : List Bool) : rstAfter v (writeBitsEv T bs) = v := by
  induction bs with
  | nil => rfl
  | cons b bs ih => simp [writeBitsEv_cons, writeBitEv, cycleEv, rstAfter, ih]

@[simp] theorem rstAfter_readBitsEv (v : Bool) (T : Nat) (bs : List Bool) : rstAfter v (readBitsEv T bs) = v := by
  induction bs with
  | nil => rfl
  | cons b bs ih => simp [readBitsEv_cons, readBitEv, rstAfter, ih]

@[simp] theorem samplesOnlyInput_writeBitsEv (d : Dir) (T : Nat) (bs : List Bool) :
    samplesOnlyInput d (writeBitsEv T bs) = true := by
  induction bs generalizing d with
  | nil => rfl
  | cons b bs ih => simp [writeBitsEv_cons, writeBitEv, cycleEv, samplesOnlyInput, ih]

@[simp] theorem samplesOnlyInput_readBitsEv (d : Dir) (T : Nat) (bs : List Bool) :
    samplesOnlyInput d (readBitsEv T bs) = true := by
  induction bs generalizing d with
  | nil => rfl
  | cons b bs ih => simp [readBitsEv_cons, readBitEv, samplesOnlyInput, ih]

end Sys2Proof.Machine
end

