-- ==== Sys2Proof/Laws/Transport.lean ====
section
/-!
SUPPORT. Laws of the transport: each operation is its rule's events played, a read also taking the target's answers.
-/

namespace Sys2Proof.Machine

theorem clockCycle_eq_play (s : State) : clockCycle s = play (cycleEv s.cfg.tHalfUs) s := by
  simp only [clockCycle, halfDelay_eq_play, setClk_eq_play, ← play_append]
  rfl

theorem clockCycles_eq_play (n : Nat) (s : State) : clockCycles n s = play (cyclesEv s.cfg.tHalfUs n) s := by
  induction n generalizing s with
  | zero => rfl
  | succ n ih => rw [clockCycles, ih, clockCycle_eq_play, ← play_append]; rfl

theorem writeBit_eq_play (b : Bool) (s : State) : writeBit b s = play (writeBitEv s.cfg.tHalfUs b) s := by
  simp only [writeBit, setDir_eq_play, setDio_eq_play, clockCycle_eq_play, ← play_append]
  rfl

theorem writeBits_eq_play (bs : List Bool) (s : State) : writeBits bs s = play (writeBitsEv s.cfg.tHalfUs bs) s := by
  induction bs generalizing s with
  | nil => rfl
  | cons b bs ih => rw [writeBits, ih, writeBit_eq_play, ← play_append]; rfl

theorem writeWord_eq_play (w : Word) (s : State) :
    writeWord w s = play (writeBitsEv s.cfg.tHalfUs (bitsOf w)) s := writeBits_eq_play _ _

theorem drive_eq_play (v : Bool) (n : Nat) (s : State) : drive v n s = play (driveEv s.cfg.tHalfUs v n) s := by
  simp only [drive, setDir_eq_play, setDio_eq_play, clockCycles_eq_play, ← play_append]
  rfl

theorem idle_eq_play (n : Nat) (s : State) : idle n s = play (driveEv s.cfg.tHalfUs false n) s := drive_eq_play _ _ _

/-- The target's answer to `read_bit()`: its next scripted one, or the oracle's draw from the history at the sample. -/
def readBitAnswer (s : State) : Bool :=
  s.answers.headD (Config.oracle
    ([.setClk true, .delay s.cfg.tHalfUs, .setClk false, .setDir .input] ++ s.evRev))

theorem readBit_eq_play (s : State) :
    readBit s =
      (readBitAnswer s, { play (readBitEv s.cfg.tHalfUs (readBitAnswer s)) s with answers := s.answers.tail }) := by
  have h : setClk true (halfDelay (setClk false (setDir .input s)))
      = play [.setDir .input, .setClk false, .delay s.cfg.tHalfUs, .setClk true] s := by
    simp only [setDir_eq_play, setClk_eq_play, halfDelay_eq_play, ← play_append]
    rfl
  have hb : draw (play [.setDir .input, .setClk false, .delay s.cfg.tHalfUs, .setClk true] s) = readBitAnswer s := rfl
  rw [readBit, h, sampleDio_eq_play, hb]
  have he : readBitEv s.cfg.tHalfUs (readBitAnswer s) = [.setDir .input, .setClk false, .delay s.cfg.tHalfUs, .setClk true]
      ++ [.sampleDio (readBitAnswer s)] ++ [.delay s.cfg.tHalfUs] := rfl
  rw [he, play_append, play_append]
  rfl

/-- What `n` reads give, whatever the target answers: the scripted answers first. -/
theorem readBits_spec (n : Nat) (s : State) :
    ∃ bs : List Bool, bs.length = n ∧ bs.take s.answers.length = s.answers.take n ∧
      readBits n s = (bs, { play (readBitsEv s.cfg.tHalfUs bs) s with answers := s.answers.drop n }) := by
  induction n generalizing s with
  | zero => exact ⟨[], rfl, by simp, rfl⟩
  | succ n ih =>
    have hr := readBit_eq_play s
    set b := readBitAnswer s with hb
    obtain ⟨bs, hlen, htake, hbs⟩ := ih { play (readBitEv s.cfg.tHalfUs b) s with answers := s.answers.tail }
    refine ⟨b :: bs, by simp [hlen], ?_, ?_⟩
    · cases hs : s.answers with
      | nil => simp
      | cons x xs =>
        have hx : b = x := by rw [hb, readBitAnswer, hs]; rfl
        simp only [hs, List.tail_cons] at htake
        simp [hx, htake]
    · rw [readBits, hr, hbs, readBitsEv_cons, play_append]
      simp only [play_fields, List.drop_tail]

/-- What reads give where the target's answers are scripted. -/
theorem readBits_script (n : Nat) (bs rest : List Bool) (s : State) (hn : bs.length = n) (h : s.answers = bs ++ rest) :
    readBits n s = (bs, { play (readBitsEv s.cfg.tHalfUs bs) s with answers := rest }) := by
  obtain ⟨cs, hlen, htake, heq⟩ := readBits_spec n s
  have hc : cs = bs := by
    rw [h, List.take_append_of_le_length (by omega), List.take_of_length_le (by simp [hlen, hn]),
      List.take_of_length_le (by omega)] at htake
    exact htake
  have hd : s.answers.drop n = rest := by rw [h, ← hn, List.drop_left]
  rw [heq, hc, hd]

/-- A word read where the target's answers are scripted. -/
theorem readWord_script (w : Word) (rest : List Bool) (s : State) (h : s.answers = bitsOf w ++ rest) :
    readWord s = (w, { play (readBitsEv s.cfg.tHalfUs (bitsOf w)) s with answers := rest }) := by
  rw [readWord, readBits_script 32 (bitsOf w) rest s (by simp) h, ofBits_bitsOf]

/-- A bit read where the target's answers are scripted. -/
theorem readBit_script (b : Bool) (rest : List Bool) (s : State) (h : s.answers = b :: rest) :
    readBit s = (b, { play (readBitEv s.cfg.tHalfUs b) s with answers := rest }) := by
  have hb : readBitAnswer s = b := by rw [readBitAnswer, h]; rfl
  rw [readBit_eq_play, hb, h]
  rfl

end Sys2Proof.Machine
end

