-- ==== Sys2Proof/Laws/Transaction.lean ====
section
/-!
SUPPORT. Laws of the transaction engine: what each phase, an attempt and a whole transaction are where the target's
answers are known. The answers may come from a script or from an attached reference target: the laws look at them
after `targetSees`.
-/

namespace Sys2Proof.Machine

/-! ### The target's part. -/

theorem targetSees_none (port : Port) (rnw : Bool) (a : BitVec 2) (v : Word) (s : State) (h : s.target = none) :
    targetSees port rnw a v s = s := by simp [targetSees, h]

theorem targetSees_some (port : Port) (rnw : Bool) (a : BitVec 2) (v : Word) (s : State) (r : RefTarget)
    (h : s.target = some r) :
    targetSees port rnw a v s = { s with
      answers := (r.respond s.cfg port rnw a v).1, target := some (r.respond s.cfg port rnw a v).2 } := by
  simp [targetSees, h]

/-- The target's part changes the answers and the target alone. -/
theorem targetSees_eq (port : Port) (rnw : Bool) (a : BitVec 2) (v : Word) (s : State) :
    targetSees port rnw a v s = { s with
      answers := (targetSees port rnw a v s).answers, target := (targetSees port rnw a v s).target } := by
  unfold targetSees
  split <;> rfl

/-! ### The phases of an attempt. -/

theorem sendHeader_eq (f : ReqFormat) (port : Port) (rnw : Bool) (a : BitVec 2) (s : State) :
    sendHeader f port rnw a s = { play (writeBitsEv s.cfg.tHalfUs (headerBits f port rnw a)) s with
      reqParity := requestParity f port rnw a } := by
  rw [sendHeader, writeBits_eq_play]
  rfl

theorem requestPhase_eq (port : Port) (rnw : Bool) (a : BitVec 2) (s : State) :
    requestPhase port rnw a s = { play (requestEv s.cfg port rnw a) s with
      reqParity := requestParity s.cfg.reqFormat port rnw a } := by
  rw [requestPhase, sendHeader_eq, setDir_eq_play, setDir_eq_play, clockCycle_eq_play, requestEv, play_append,
    play_append, play_append]
  rfl

theorem ackPhase_script (k : BitVec 3) (rest : List Bool) (s : State) (h : s.answers = bitsOf k ++ rest) :
    ackPhase s = { play (readBitsEv s.cfg.tHalfUs (bitsOf k)) s with answers := rest, ack := k } := by
  rw [ackPhase, readBits_script 3 (bitsOf k) rest s (by simp) h, ofBits_bitsOf]

theorem readPhase_script (w : Word) (p : Bool) (rest : List Bool) (s : State)
    (h : s.answers = bitsOf w ++ [p] ++ rest) :
    readPhase s = { play (cyclesEv s.cfg.tHalfUs s.cfg.readTrn ++ readBitsEv s.cfg.tHalfUs (bitsOf w ++ [p])) s with
      answers := rest, rdata := w, rparity := p } := by
  have h₁ : (play (cyclesEv s.cfg.tHalfUs s.cfg.readTrn) s).answers = bitsOf w ++ ([p] ++ rest) := by
    rw [← List.append_assoc]; exact h
  have hb : readBitsEv s.cfg.tHalfUs [p] = readBitEv s.cfg.tHalfUs p := by simp [readBitsEv]
  rw [readPhase, clockCycles_eq_play]
  simp only [readWord_script w _ _ h₁]
  rw [readBit_script p rest _ rfl, play_append, readBitsEv_append, play_append, hb]
  rfl

theorem writePhase_eq (v : Word) (s : State) :
    writePhase v s =
      play (cycleEv s.cfg.tHalfUs ++ writeBitsEv s.cfg.tHalfUs (bitsOf v ++ [writeParity s.cfg v])) s := by
  have hb : writeBitsEv s.cfg.tHalfUs [writeParity s.cfg v] = writeBitEv s.cfg.tHalfUs (writeParity s.cfg v) := by
    simp [writeBitsEv]
  rw [writePhase, clockCycle_eq_play, writeWord_eq_play, writeBit_eq_play, writeBitsEv_append, play_append,
    play_append, hb]
  rfl

theorem dataPhase_skip (rnw : Bool) (v : Word) (s : State) (h : s.ack ≠ s.cfg.ackOk) : dataPhase rnw v s = s := by
  rw [dataPhase, if_neg h]

theorem dataPhase_read (v : Word) (s : State) (h : s.ack = s.cfg.ackOk) : dataPhase true v s = readPhase s := by
  rw [dataPhase, if_pos h, if_pos rfl]

theorem dataPhase_write (v : Word) (s : State) (h : s.ack = s.cfg.ackOk) : dataPhase false v s = writePhase v s := by
  rw [dataPhase, if_pos h, if_neg Bool.false_ne_true]

theorem closePhase_eq (s : State) : closePhase s = play (closeEv s.cfg) s := by
  rw [closePhase, clockCycle_eq_play, idle_eq_play, closeEv, play_append]
  rfl

/-! ### An attempt. -/

/-- An attempt up to and including the ACK `k`. -/
theorem attempt_ack (port : Port) (rnw : Bool) (a : BitVec 2) (v : Word) (k : BitVec 3) (rest : List Bool) (s : State)
    (h : (targetSees port rnw a v s).answers = bitsOf k ++ rest) :
    attempt port rnw a v s = closePhase (dataPhase rnw v
      { play (requestEv s.cfg port rnw a ++ readBitsEv s.cfg.tHalfUs (bitsOf k)) s with
        answers := rest, target := (targetSees port rnw a v s).target
        reqParity := requestParity s.cfg.reqFormat port rnw a, ack := k }) := by
  have h' : (requestPhase port rnw a (targetSees port rnw a v s)).answers = bitsOf k ++ rest := by
    rw [requestPhase_eq]; exact h
  rw [attempt, ackPhase_script k rest _ h', requestPhase_eq, play_append]
  rw [targetSees_eq]
  rfl

/-- An attempt answered with an ACK other than `ACK_OK`: no data phase. -/
theorem attempt_notOk (port : Port) (rnw : Bool) (a : BitVec 2) (v : Word) (k : BitVec 3) (rest : List Bool)
    (s : State) (hk : k ≠ s.cfg.ackOk) (h : (targetSees port rnw a v s).answers = bitsOf k ++ rest) :
    attempt port rnw a v s = { play (notOkEv s.cfg port rnw a k) s with
      answers := rest, target := (targetSees port rnw a v s).target
      reqParity := requestParity s.cfg.reqFormat port rnw a, ack := k } := by
  rw [attempt_ack port rnw a v k rest s h, dataPhase_skip _ _ _ hk, closePhase_eq, notOkEv, play_append _ (closeEv _)]
  rfl

/-- A read answered with `ACK_OK`, a word and its parity bit. -/
theorem attempt_read (port : Port) (a : BitVec 2) (v w : Word) (p : Bool) (rest : List Bool) (s : State)
    (h : (targetSees port true a v s).answers = okRead s.cfg w p ++ rest) :
    attempt port true a v s = { play (readOkEv s.cfg port a w p) s with
      answers := rest, target := (targetSees port true a v s).target
      reqParity := requestParity s.cfg.reqFormat port true a, ack := s.cfg.ackOk, rdata := w, rparity := p } := by
  rw [okRead, List.append_assoc, List.append_assoc] at h
  rw [attempt_ack port true a v _ _ s h, dataPhase_read _ _ rfl,
    readPhase_script w p rest _ (List.append_assoc _ _ _).symm, closePhase_eq]
  have he : readOkEv s.cfg port a w p = (requestEv s.cfg port true a ++ readBitsEv s.cfg.tHalfUs (bitsOf s.cfg.ackOk))
      ++ (cyclesEv s.cfg.tHalfUs s.cfg.readTrn ++ readBitsEv s.cfg.tHalfUs (bitsOf w ++ [p])) ++ closeEv s.cfg := by
    simp [readOkEv]
  rw [he, play_append _ (closeEv _), play_append (requestEv _ _ _ _ ++ _)]
  rfl

/-- A write answered with `ACK_OK`. -/
theorem attempt_write (port : Port) (a : BitVec 2) (v : Word) (rest : List Bool) (s : State)
    (h : (targetSees port false a v s).answers = bitsOf s.cfg.ackOk ++ rest) :
    attempt port false a v s = { play (writeOkEv s.cfg port a v) s with
      answers := rest, target := (targetSees port false a v s).target
      reqParity := requestParity s.cfg.reqFormat port false a, ack := s.cfg.ackOk } := by
  rw [attempt_ack port false a v _ _ s h, dataPhase_write _ _ rfl, writePhase_eq, closePhase_eq]
  have he : writeOkEv s.cfg port a v
      = (requestEv s.cfg port false a ++ readBitsEv s.cfg.tHalfUs (bitsOf s.cfg.ackOk))
      ++ (cycleEv s.cfg.tHalfUs ++ writeBitsEv s.cfg.tHalfUs (bitsOf v ++ [writeParity s.cfg v])) ++ closeEv s.cfg := by
    simp [writeOkEv]
  rw [he, play_append _ (closeEv _), play_append (requestEv _ _ _ _ ++ _)]
  rfl

/-! ### A transaction. -/

theorem retryWait_of_not_wait (port : Port) (rnw : Bool) (a : BitVec 2) (v : Word) (n : Nat) (s : State)
    (h : s.ack ≠ s.cfg.ackWait) : retryWait port rnw a v n s = s := by
  cases n with
  | zero => rfl
  | succ n => rw [retryWait, if_neg h]

/-- A transaction whose first attempt is not answered with WAIT is that attempt. -/
theorem xfer_of_not_wait (port : Port) (rnw : Bool) (a : BitVec 2) (v : Word) (s : State)
    (h : (attempt port rnw a v s).ack ≠ (attempt port rnw a v s).cfg.ackWait) :
    xfer port rnw a v s = attempt port rnw a v s := retryWait_of_not_wait _ _ _ _ _ _ h

theorem xfer_read (port : Port) (a : BitVec 2) (v w : Word) (p : Bool) (rest : List Bool) (s : State)
    (hd : s.cfg.ackOk ≠ s.cfg.ackWait) (h : (targetSees port true a v s).answers = okRead s.cfg w p ++ rest) :
    xfer port true a v s = { play (readOkEv s.cfg port a w p) s with
      answers := rest, target := (targetSees port true a v s).target
      reqParity := requestParity s.cfg.reqFormat port true a, ack := s.cfg.ackOk, rdata := w, rparity := p } := by
  rw [← attempt_read port a v w p rest s h]
  exact xfer_of_not_wait _ _ _ _ _ (by rw [attempt_read port a v w p rest s h]; exact hd)

theorem xfer_write (port : Port) (a : BitVec 2) (v : Word) (rest : List Bool) (s : State)
    (hd : s.cfg.ackOk ≠ s.cfg.ackWait) (h : (targetSees port false a v s).answers = bitsOf s.cfg.ackOk ++ rest) :
    xfer port false a v s = { play (writeOkEv s.cfg port a v) s with
      answers := rest, target := (targetSees port false a v s).target
      reqParity := requestParity s.cfg.reqFormat port false a, ack := s.cfg.ackOk } := by
  rw [← attempt_write port a v rest s h]
  exact xfer_of_not_wait _ _ _ _ _ (by rw [attempt_write port a v rest s h]; exact hd)

/-- A transaction answered with an ACK that fails it after one attempt. -/
theorem xfer_failing (port : Port) (rnw : Bool) (a : BitVec 2) (v : Word) (k : BitVec 3) (rest : List Bool)
    (s : State) (hk : failingAck s.cfg k = true) (h : (targetSees port rnw a v s).answers = bitsOf k ++ rest) :
    xfer port rnw a v s = { play (notOkEv s.cfg port rnw a k) s with
      answers := rest, target := (targetSees port rnw a v s).target
      reqParity := requestParity s.cfg.reqFormat port rnw a, ack := k } := by
  simp only [failingAck, Bool.and_eq_true, decide_eq_true_eq] at hk
  rw [← attempt_notOk port rnw a v k rest s hk.1 h]
  by_cases hw : k = s.cfg.ackWait
  · rw [xfer, hk.2 hw]; rfl
  · exact xfer_of_not_wait _ _ _ _ _ (by rw [attempt_notOk port rnw a v k rest s hk.1 h]; exact hw)

end Sys2Proof.Machine
end

