-- ==== Sys2Proof/Laws/Wire.lean ====
section
/-!
SUPPORT. What a transaction may do, whatever the target answers: `OnWire`, closed under doing one thing after another,
and one law for each operation built of transactions alone.
-/

namespace Sys2Proof.Machine

/-- `t` comes from `s` by pin events that leave nRESET alone and sample only with the line released, and by changes to
the transaction registers and the target; an attached reference target's memory stays canonical. -/
structure OnWire (s t : State) : Prop where
  /-- Everything that changed. -/
  eq : ∃ evs, t = { play evs s with
    answers := t.answers, target := t.target, ack := t.ack, rdata := t.rdata, rparity := t.rparity
    reqParity := t.reqParity } ∧
      samplesOnlyInput s.dioDir evs = true ∧ (∀ v, rstAfter v evs = v) ∧ clkAfter true evs = true
  /-- The reference target's memory. -/
  mem : TargetMemoryInv s → TargetMemoryInv t

theorem OnWire.refl (s : State) : OnWire s s := ⟨⟨[], rfl, rfl, fun _ => rfl, rfl⟩, id⟩

theorem OnWire.trans {s t u : State} (h₁ : OnWire s t) (h₂ : OnWire t u) : OnWire s u := by
  obtain ⟨⟨xs, hx, sx, rx, cx⟩, mx⟩ := h₁
  obtain ⟨⟨ys, hy, sy, ry, cy⟩, my⟩ := h₂
  have hd : t.dioDir = dirAfter s.dioDir xs := by rw [hx]; rfl
  refine ⟨⟨xs ++ ys, ?_, ?_, ?_, ?_⟩, fun h => my (mx h)⟩
  · rw [play_append]
    conv_lhs => rw [hy, hx]
    rfl
  · rw [samplesOnlyInput_append, sx, ← hd, sy]; rfl
  · intro v; rw [rstAfter_append, rx, ry]
  · rw [clkAfter_append, cx, cy]

/-- Events alone. -/
theorem OnWire.ofPlay (evs : List PinEvent) (s : State) (h₁ : samplesOnlyInput s.dioDir evs = true)
    (h₂ : ∀ v, rstAfter v evs = v) (h₃ : clkAfter true evs = true) : OnWire s (play evs s) :=
  ⟨⟨evs, rfl, h₁, h₂, h₃⟩, id⟩

/-! ### What stays, of a state reached on the wire. -/

theorem OnWire.cfg {s t : State} (h : OnWire s t) : t.cfg = s.cfg := by
  obtain ⟨⟨_, he, _⟩, _⟩ := h; rw [he]; rfl

theorem OnWire.session {s t : State} (h : OnWire s t) : t.session = s.session := by
  obtain ⟨⟨_, he, _⟩, _⟩ := h; rw [he]; rfl

theorem OnWire.offWire {s t : State} (h : OnWire s t) : t.offWire = s.offWire := by
  obtain ⟨⟨_, he, _, hr, _⟩, _⟩ := h
  rw [he]
  simp [State.offWire, hr]

/-! ### The operations. -/

theorem OnWire.clockCycle (s : State) : OnWire s (clockCycle s) := by
  rw [clockCycle_eq_play]
  exact OnWire.ofPlay _ _ rfl (fun _ => rfl) rfl

theorem OnWire.clockCycles (n : Nat) (s : State) : OnWire s (clockCycles n s) := by
  rw [clockCycles_eq_play]
  exact OnWire.ofPlay _ _ (by simp) (by simp) (by simp)

theorem OnWire.writeBits (bs : List Bool) (s : State) : OnWire s (writeBits bs s) := by
  rw [writeBits_eq_play]
  exact OnWire.ofPlay _ _ (by simp) (by simp) (by simp)

theorem OnWire.drive (v : Bool) (n : Nat) (s : State) : OnWire s (drive v n s) := by
  rw [drive_eq_play]
  exact OnWire.ofPlay _ _ (by simp [driveEv, samplesOnlyInput]) (by simp [driveEv, rstAfter])
    (by simp [driveEv, clkAfter])

theorem OnWire.setDir (d : Dir) (s : State) : OnWire s (setDir d s) :=
  OnWire.ofPlay [.setDir d] s rfl (fun _ => rfl) rfl

theorem OnWire.delay (n : Nat) (s : State) : OnWire s (delay n s) :=
  OnWire.ofPlay [.delay n] s rfl (fun _ => rfl) rfl

theorem OnWire.readBits (n : Nat) (s : State) : OnWire s (readBits n s).2 := by
  obtain ⟨bs, -, -, h⟩ := readBits_spec n s
  rw [h]
  exact ⟨⟨readBitsEv s.cfg.tHalfUs bs, rfl, by simp, by simp, by simp⟩, id⟩

theorem OnWire.writeWord (w : Word) (s : State) : OnWire s (writeWord w s) := by
  rw [Machine.writeWord]; exact OnWire.writeBits _ s

theorem OnWire.readWord (s : State) : OnWire s (readWord s).2 := by
  simp only [Machine.readWord]; exact OnWire.readBits 32 s

theorem OnWire.jtagToSwd (s : State) : OnWire s (jtagToSwd s) := by
  rw [Machine.jtagToSwd]; exact OnWire.writeBits _ s

theorem OnWire.readBit (s : State) : OnWire s (readBit s).2 := by
  rw [readBit_eq_play]
  exact ⟨⟨readBitEv s.cfg.tHalfUs (readBitAnswer s), rfl, rfl, fun _ => rfl, rfl⟩, id⟩

/-- The transaction registers. -/
theorem OnWire.registers (s : State) (k : BitVec 3) (w : Word) (p q : Bool) :
    OnWire s { s with ack := k, rdata := w, rparity := p, reqParity := q } :=
  ⟨⟨[], rfl, rfl, fun _ => rfl, rfl⟩, id⟩

theorem OnWire.targetSees (port : Port) (rnw : Bool) (a : BitVec 2) (v : Word) (s : State) :
    OnWire s (targetSees port rnw a v s) := by
  cases hr : s.target with
  | none => rw [targetSees_none _ _ _ _ _ hr]; exact OnWire.refl s
  | some r =>
    rw [targetSees_some _ _ _ _ _ r hr]
    refine ⟨⟨[], rfl, rfl, fun _ => rfl, rfl⟩, fun h q hq => ?_⟩
    cases hq
    exact RefTarget.respond_canonical s.cfg r port rnw a v (h r hr)

theorem OnWire.sendHeader (f : ReqFormat) (port : Port) (rnw : Bool) (a : BitVec 2) (s : State) :
    OnWire s (sendHeader f port rnw a s) :=
  (OnWire.registers s s.ack s.rdata s.rparity (requestParity f port rnw a)).trans (OnWire.writeBits _ _)

theorem OnWire.requestPhase (port : Port) (rnw : Bool) (a : BitVec 2) (s : State) :
    OnWire s (requestPhase port rnw a s) :=
  (OnWire.setDir _ _).trans ((OnWire.sendHeader _ _ _ _ _).trans ((OnWire.setDir _ _).trans (OnWire.clockCycle _)))

theorem OnWire.ackPhase (s : State) : OnWire s (ackPhase s) :=
  (OnWire.readBits 3 s).trans (OnWire.registers _ _ _ _ _)

theorem OnWire.readPhase (s : State) : OnWire s (readPhase s) := by
  have h₁ := (OnWire.clockCycles s.cfg.readTrn s).trans (OnWire.readBits 32 _)
  generalize hr : Machine.readBits 32 (Machine.clockCycles s.cfg.readTrn s) = r at h₁
  have h₂ : OnWire r.2 { r.2 with rdata := ofBits 32 r.1 } :=
    OnWire.registers r.2 r.2.ack (ofBits 32 r.1) r.2.rparity r.2.reqParity
  have h₃ := OnWire.readBit { r.2 with rdata := ofBits 32 r.1 }
  generalize hp : Machine.readBit { r.2 with rdata := ofBits 32 r.1 } = p at h₃
  have h₄ : OnWire p.2 { p.2 with rparity := p.1 } := OnWire.registers p.2 p.2.ack p.2.rdata p.1 p.2.reqParity
  have he : Machine.readPhase s = { p.2 with rparity := p.1 } := by
    simp only [Machine.readPhase, Machine.readWord, hr, hp]
  rw [he]
  exact h₁.trans (h₂.trans (h₃.trans h₄))

theorem OnWire.writePhase (v : Word) (s : State) : OnWire s (writePhase v s) :=
  (OnWire.clockCycle s).trans <| (OnWire.writeBits (bitsOf v) _).trans (OnWire.writeBits [_] _)

theorem OnWire.dataPhase (rnw : Bool) (v : Word) (s : State) : OnWire s (dataPhase rnw v s) := by
  unfold Machine.dataPhase
  split_ifs
  · exact OnWire.readPhase s
  · exact OnWire.writePhase v s
  · exact OnWire.refl s

theorem OnWire.attempt (port : Port) (rnw : Bool) (a : BitVec 2) (v : Word) (s : State) :
    OnWire s (attempt port rnw a v s) :=
  (OnWire.targetSees port rnw a v s).trans <| (OnWire.requestPhase port rnw a _).trans <|
    (OnWire.ackPhase _).trans <| (OnWire.dataPhase rnw v _).trans <|
    (OnWire.clockCycle _).trans (OnWire.drive _ _ _)

theorem OnWire.retryWait (port : Port) (rnw : Bool) (a : BitVec 2) (v : Word) (n : Nat) (s : State) :
    OnWire s (retryWait port rnw a v n s) := by
  induction n generalizing s with
  | zero => exact OnWire.refl s
  | succ n ih =>
    unfold Machine.retryWait
    split_ifs
    · exact (OnWire.attempt port rnw a v s).trans (ih _)
    · exact OnWire.refl s

/-- A transaction, whatever the target answers. -/
theorem OnWire.xfer (port : Port) (rnw : Bool) (a : BitVec 2) (v : Word) (s : State) :
    OnWire s (xfer port rnw a v s) :=
  (OnWire.attempt port rnw a v s).trans (OnWire.retryWait port rnw a v _ _)

theorem OnWire.memRead (addr : Word) (s : State) : OnWire s (memRead addr s).st := by
  simp only [Machine.memRead]
  split_ifs
  · exact (OnWire.xfer _ _ _ _ _).trans (OnWire.xfer _ _ _ _ _)
  · exact (OnWire.xfer _ _ _ _ _).trans (OnWire.xfer _ _ _ _ _)
  · exact OnWire.xfer _ _ _ _ _

theorem OnWire.memWrite (addr data : Word) (s : State) : OnWire s (memWrite addr data s).2 := by
  simp only [Machine.memWrite]
  split_ifs
  · exact (OnWire.xfer _ _ _ _ _).trans (OnWire.xfer _ _ _ _ _)
  · exact OnWire.xfer _ _ _ _ _

/-! ### Steps that can fail. -/

/-- The state a step leaves, raised or not. -/
def Res.st : Res → State
  | .ok s => s
  | .raised _ s => s

@[simp] theorem Res.st_ok (s : State) : (Res.ok s).st = s := rfl
@[simp] theorem Res.st_raised (e : ErrorKind) (s : State) : (Res.raised e s).st = s := rfl
@[simp] theorem Res.andThen_ok (s : State) (f : State → Res) : (Res.ok s).andThen f = f s := rfl
@[simp] theorem Res.andThen_raised (e : ErrorKind) (s : State) (f : State → Res) :
    (Res.raised e s).andThen f = .raised e s := rfl

/-- Two steps in sequence keep what each keeps, for any relation closed under doing one thing after another. -/
theorem Res.andThen_rel (R : State → State → Prop) (tr : ∀ {s t u}, R s t → R t u → R s u) {s : State} {r : Res}
    {f : State → Res} (h₁ : R s r.st) (h₂ : ∀ t, R t (f t).st) : R s (r.andThen f).st := by
  cases r with
  | ok t => exact tr h₁ (h₂ t)
  | raised e t => exact h₁

theorem OnWire.andThen {s : State} {r : Res} {f : State → Res} (h₁ : OnWire s r.st) (h₂ : ∀ t, OnWire t (f t).st) :
    OnWire s (r.andThen f).st := Res.andThen_rel OnWire OnWire.trans h₁ h₂

@[simp] theorem checkXfer_st (rnw : Bool) (e : ErrorKind) (s : State) : (checkXfer rnw e s).st = s := by
  unfold checkXfer; split_ifs <;> rfl

@[simp] theorem checkLocked_st (s : State) : (checkLocked s).st = s := by
  unfold checkLocked; split_ifs <;> rfl

@[simp] theorem memWriteOr_st (e : ErrorKind) (addr data : Word) (s : State) :
    (memWriteOr e addr data s).st = (memWrite addr data s).2 := by
  unfold memWriteOr; split_ifs <;> rfl

theorem OnWire.memWriteOr (e : ErrorKind) (addr data : Word) (s : State) : OnWire s (memWriteOr e addr data s).st := by
  rw [memWriteOr_st]; exact OnWire.memWrite addr data s

theorem OnWire.pollPower (n : Nat) (s : State) : OnWire s (pollPower n s).st := by
  induction n generalizing s with
  | zero => exact OnWire.refl s
  | succ n ih =>
    simp only [Machine.pollPower]
    split_ifs
    · exact OnWire.xfer _ _ _ _ _
    · exact OnWire.xfer _ _ _ _ _
    · exact (OnWire.xfer _ _ _ _ _).trans ((OnWire.delay _ _).trans (ih _))

theorem OnWire.powerUp (s : State) : OnWire s (powerUp s).st :=
  OnWire.andThen (by rw [checkXfer_st]; exact OnWire.xfer _ _ _ _ _) fun _ => OnWire.pollPower _ _

theorem OnWire.cpuReset (s : State) : OnWire s (cpuReset s).st := OnWire.memWriteOr _ _ _ _

theorem OnWire.cpuHalt (s : State) : OnWire s (cpuHalt s).st :=
  OnWire.andThen (OnWire.memWriteOr _ _ _ _) fun _ => OnWire.andThen (OnWire.memWriteOr _ _ _ _) fun _ =>
    OnWire.memWriteOr _ _ _ _

theorem OnWire.massErase (s : State) : OnWire s (massErase s).st :=
  OnWire.andThen (OnWire.memWriteOr _ _ _ _) fun _ => OnWire.andThen (OnWire.memWriteOr _ _ _ _) fun _ =>
    OnWire.delay _ _

theorem OnWire.pageErase (pa : Word) (s : State) : OnWire s (pageErase pa s).st :=
  OnWire.andThen (OnWire.memWriteOr _ _ _ _) fun _ => OnWire.andThen (OnWire.memWriteOr _ _ _ _) fun _ =>
    OnWire.andThen (OnWire.memWriteOr _ _ _ _) fun _ => OnWire.andThen (OnWire.memWriteOr _ _ _ _) fun _ =>
    OnWire.delay _ _

end Sys2Proof.Machine
end

