-- ==== Sys2Proof/Laws/Access.lean ====
section
/-!
SUPPORT. Laws of memory access where the target's answers are scripted and no reference target is attached: a write
and a read whose transactions are acknowledged, and where the first failing transaction leaves them.
-/

namespace Sys2Proof.Machine

/-- What a transaction with an outgoing word leaves of the target-side state. -/
def afterWrite (port : Port) (a : BitVec 2) (evs : List PinEvent) (rest : List Bool) (k : BitVec 3) (s : State) : State :=
  { play evs s with answers := rest, reqParity := requestParity s.cfg.reqFormat port false a, ack := k }

/-- What an acknowledged read leaves. -/
def afterRead (port : Port) (a : BitVec 2) (evs : List PinEvent) (rest : List Bool) (w : Word) (p : Bool)
    (s : State) : State :=
  { play evs s with
    answers := rest, reqParity := requestParity s.cfg.reqFormat port true a, ack := s.cfg.ackOk, rdata := w, rparity := p }

/-- What a read that is not acknowledged leaves. -/
def afterFailedRead (port : Port) (a : BitVec 2) (evs : List PinEvent) (rest : List Bool) (k : BitVec 3)
    (s : State) : State :=
  { play evs s with answers := rest, reqParity := requestParity s.cfg.reqFormat port true a, ack := k }

/-! ### Success. -/

theorem xferOk_write {s : State} (h : s.ack = s.cfg.ackOk) : xferOk false s = true := by simp [xferOk, h]

theorem xferOk_read {s : State} (h : s.ack = s.cfg.ackOk) (hp : parityAccepted s.cfg s.rdata s.rparity = true) :
    xferOk true s = true := by
  simp only [parityAccepted, Bool.or_eq_true, decide_eq_true_eq, beq_iff_eq] at hp
  obtain hp | hp := hp <;> simp [xferOk, h, hp]

theorem xferOk_of_ack_ne {rnw : Bool} {s : State} (h : s.ack ≠ s.cfg.ackOk) : xferOk rnw s = false := by
  simp [xferOk, h]

theorem ack_ne_of_failing {cfg : Params} {k : BitVec 3} (h : failingAck cfg k = true) : k ≠ cfg.ackOk := by
  simp only [failingAck, Bool.and_eq_true, decide_eq_true_eq] at h; exact h.1

theorem parityAccepted_even (cfg : Params) (w : Word) : parityAccepted cfg w (evenParity w) = true := by
  simp [parityAccepted]

/-! ### Transactions on a script. -/

theorem xfer_write_script (port : Port) (a : BitVec 2) (v : Word) (rest : List Bool) (s : State)
    (ht : s.target = none) (hd : s.cfg.ackOk ≠ s.cfg.ackWait) (h : s.answers = okAcks s.cfg 1 ++ rest) :
    xfer port false a v s = afterWrite port a (writeOkEv s.cfg port a v) rest s.cfg.ackOk s := by
  have hs := targetSees_none port false a v s ht
  rw [xfer_write port a v rest s hd (by rw [hs, h]; simp [okAcks]), hs]
  rfl

theorem xfer_read_script (port : Port) (a : BitVec 2) (v w : Word) (p : Bool) (rest : List Bool) (s : State)
    (ht : s.target = none) (hd : s.cfg.ackOk ≠ s.cfg.ackWait) (h : s.answers = okRead s.cfg w p ++ rest) :
    xfer port true a v s = afterRead port a (readOkEv s.cfg port a w p) rest w p s := by
  have hs := targetSees_none port true a v s ht
  rw [xfer_read port a v w p rest s hd (by rw [hs, h]), hs]
  rfl

theorem xfer_write_failing (port : Port) (a : BitVec 2) (v : Word) (k : BitVec 3) (rest : List Bool) (s : State)
    (ht : s.target = none) (hk : failingAck s.cfg k = true) (h : s.answers = bitsOf k ++ rest) :
    xfer port false a v s = afterWrite port a (notOkEv s.cfg port false a k) rest k s := by
  have hs := targetSees_none port false a v s ht
  rw [xfer_failing port false a v k rest s hk (by rw [hs, h]), hs]
  rfl

theorem xfer_read_failing (port : Port) (a : BitVec 2) (v : Word) (k : BitVec 3) (rest : List Bool) (s : State)
    (ht : s.target = none) (hk : failingAck s.cfg k = true) (h : s.answers = bitsOf k ++ rest) :
    xfer port true a v s = afterFailedRead port a (notOkEv s.cfg port true a k) rest k s := by
  have hs := targetSees_none port true a v s ht
  rw [xfer_failing port true a v k rest s hk (by rw [hs, h]), hs]
  rfl

/-! ### One after another. -/

theorem okAcks_succ (cfg : Params) (n : Nat) : okAcks cfg (n + 1) = okAcks cfg 1 ++ okAcks cfg n := by simp [okAcks]

theorem okAcks_add (cfg : Params) (m n : Nat) : okAcks cfg (m + n) = okAcks cfg m ++ okAcks cfg n := by
  induction m with
  | zero => simp [okAcks]
  | succ m ih => rw [Nat.succ_add, okAcks, ih, okAcks, List.append_assoc]

theorem afterWrite_afterWrite (p q : Port) (a b : BitVec 2) (xs ys : List PinEvent) (r₁ r₂ : List Bool) (k l : BitVec 3)
    (s : State) :
    afterWrite q b ys r₂ l (afterWrite p a xs r₁ k s) = afterWrite q b (xs ++ ys) r₂ l s := by
  simp only [afterWrite, play_append]
  rfl

theorem afterRead_afterWrite (p q : Port) (a b : BitVec 2) (xs ys : List PinEvent) (r₁ r₂ : List Bool) (k : BitVec 3)
    (w : Word) (x : Bool) (s : State) :
    afterRead q b ys r₂ w x (afterWrite p a xs r₁ k s) = afterRead q b (xs ++ ys) r₂ w x s := by
  simp only [afterRead, afterWrite, play_append]
  rfl

theorem afterFailedRead_afterWrite (p q : Port) (a b : BitVec 2) (xs ys : List PinEvent) (r₁ r₂ : List Bool)
    (k l : BitVec 3) (s : State) :
    afterFailedRead q b ys r₂ l (afterWrite p a xs r₁ k s) = afterFailedRead q b (xs ++ ys) r₂ l s := by
  simp only [afterFailedRead, afterWrite, play_append]
  rfl

/-! ### `MemWrite` and `MemRead` (43_memory_access.md R220, R222). -/

theorem memWriteOr_script (e : ErrorKind) (addr data : Word) (rest : List Bool) (s : State) (ht : s.target = none)
    (hd : s.cfg.ackOk ≠ s.cfg.ackWait) (h : s.answers = okAcks s.cfg 2 ++ rest) :
    memWriteOr e addr data s = .ok (afterWrite .ap 3 (memWriteEv s.cfg addr data) rest s.cfg.ackOk s) := by
  have h₁ := xfer_write_script .ap 1 addr (okAcks s.cfg 1 ++ rest) s ht hd (by rw [h]; simp [okAcks])
  generalize hu : afterWrite .ap 1 (writeOkEv s.cfg .ap 1 addr) (okAcks s.cfg 1 ++ rest) s.cfg.ackOk s = u at h₁
  have h₂ : xfer .ap false 3 data u = afterWrite .ap 3 (memWriteEv s.cfg addr data) rest s.cfg.ackOk s := by
    subst hu
    rw [xfer_write_script (s := afterWrite _ _ _ _ _ _) .ap 3 data rest ht hd rfl, afterWrite_afterWrite]
    rfl
  have e₁ : xferOk false u = true := by subst hu; exact xferOk_write rfl
  have e₂ : xferOk false (afterWrite .ap 3 (memWriteEv s.cfg addr data) rest s.cfg.ackOk s) = true := xferOk_write rfl
  simp only [memWriteOr, memWrite, apWrite, h₁, e₁, h₂, e₂, if_true]

/-- A `MemWrite` whose first or second transaction fails (`m` is 0 or 1): the kind is raised, the failing ACK is in
`REG.ack`, and nothing more is asked of the target. -/
theorem memWriteOr_failing (e : ErrorKind) (addr data : Word) (m : Nat) (k : BitVec 3) (rest : List Bool) (s : State)
    (ht : s.target = none) (hd : s.cfg.ackOk ≠ s.cfg.ackWait) (hk : failingAck s.cfg k = true) (hm : m < 2)
    (h : s.answers = okAcks s.cfg m ++ bitsOf k ++ rest) :
    memWriteOr e addr data s
      = .raised e (afterWrite .ap (tarOrDrw m) (failedWritesEv s.cfg [(addr, data)] m k) rest k s) := by
  have hne : ∀ a evs, xferOk false (afterWrite .ap a evs rest k s) = false := fun a evs =>
    xferOk_of_ack_ne (ack_ne_of_failing hk)
  obtain rfl | rfl : m = 0 ∨ m = 1 := by omega
  · have h₁ := xfer_write_failing .ap 1 addr k rest s ht hk (by simpa [okAcks] using h)
    simp only [memWriteOr, memWrite, apWrite, h₁, hne, Bool.false_eq_true, if_false]
    rfl
  · have h₁ := xfer_write_script .ap 1 addr (bitsOf k ++ rest) s ht hd (by rw [h, List.append_assoc])
    generalize hu : afterWrite .ap 1 (writeOkEv s.cfg .ap 1 addr) (bitsOf k ++ rest) s.cfg.ackOk s = u at h₁
    have h₂ : xfer .ap false 3 data u
        = afterWrite .ap 3 (writeOkEv s.cfg .ap 1 addr ++ notOkEv s.cfg .ap false 3 k) rest k s := by
      subst hu
      rw [xfer_write_failing (s := afterWrite _ _ _ _ _ _) .ap 3 data k rest ht hk rfl, afterWrite_afterWrite]
      rfl
    have e₁ : xferOk false u = true := by subst hu; exact xferOk_write rfl
    simp only [memWriteOr, memWrite, apWrite, h₁, e₁, h₂, hne, Bool.false_eq_true, if_false, if_true]
    simp [failedWritesEv, transactionsOf, tarOrDrw]

/-- A failure in the first of some memory writes is that of the one write. -/
theorem failedWritesEv_head (cfg : Params) (w : Word × Word) (ws : List (Word × Word)) (m : Nat) (k : BitVec 3)
    (hm : m < 2) : failedWritesEv cfg (w :: ws) m k = failedWritesEv cfg [w] m k := by
  obtain rfl | rfl : m = 0 ∨ m = 1 := by omega
  · rfl
  · rfl

/-- A failure past the first of some memory writes comes after its two acknowledged transactions. -/
theorem failedWritesEv_tail (cfg : Params) (w : Word × Word) (ws : List (Word × Word)) (m : Nat) (k : BitVec 3) :
    failedWritesEv cfg (w :: ws) (m + 2) k = memWriteEv cfg w.1 w.2 ++ failedWritesEv cfg ws m k := by
  simp [failedWritesEv, transactionsOf, memWriteEv, tarOrDrw]

theorem memRead_script (addr w : Word) (p : Bool) (rest : List Bool) (s : State) (ht : s.target = none)
    (hd : s.cfg.ackOk ≠ s.cfg.ackWait) (hp : parityAccepted s.cfg w p = true)
    (h : s.answers = okAcks s.cfg 1 ++ okRead s.cfg w p ++ rest) :
    memRead addr s = ⟨true, w, afterRead .ap 3 (memReadEv s.cfg addr w p) rest w p s⟩ := by
  have h₁ := xfer_write_script .ap 1 addr (okRead s.cfg w p ++ rest) s ht hd (by rw [h, List.append_assoc])
  generalize hu : afterWrite .ap 1 (writeOkEv s.cfg .ap 1 addr) (okRead s.cfg w p ++ rest) s.cfg.ackOk s = u at h₁
  have h₂ : xfer .ap true 3 0 u = afterRead .ap 3 (memReadEv s.cfg addr w p) rest w p s := by
    subst hu
    rw [xfer_read_script (s := afterWrite _ _ _ _ _ _) .ap 3 0 w p rest ht hd rfl, afterRead_afterWrite]
    rfl
  have e₁ : xferOk false u = true := by subst hu; exact xferOk_write rfl
  have e₂ : xferOk true (afterRead .ap 3 (memReadEv s.cfg addr w p) rest w p s) = true := xferOk_read rfl hp
  simp only [memRead, apWrite, apRead, h₁, e₁, h₂, e₂, if_true]
  rfl

/-- A `MemRead` whose DRW read fails gives the sentinel (43_memory_access.md R220). -/
theorem memRead_failing (addr : Word) (k : BitVec 3) (rest : List Bool) (s : State) (ht : s.target = none)
    (hd : s.cfg.ackOk ≠ s.cfg.ackWait) (hk : failingAck s.cfg k = true)
    (h : s.answers = okAcks s.cfg 1 ++ bitsOf k ++ rest) :
    memRead addr s = ⟨false, sentinel,
      afterFailedRead .ap 3 (writeOkEv s.cfg .ap 1 addr ++ notOkEv s.cfg .ap true 3 k) rest k s⟩ := by
  have h₁ := xfer_write_script .ap 1 addr (bitsOf k ++ rest) s ht hd (by rw [h, List.append_assoc])
  generalize hu : afterWrite .ap 1 (writeOkEv s.cfg .ap 1 addr) (bitsOf k ++ rest) s.cfg.ackOk s = u at h₁
  have h₂ : xfer .ap true 3 0 u
      = afterFailedRead .ap 3 (writeOkEv s.cfg .ap 1 addr ++ notOkEv s.cfg .ap true 3 k) rest k s := by
    subst hu
    rw [xfer_read_failing (s := afterWrite _ _ _ _ _ _) .ap 3 0 k rest ht hk rfl, afterFailedRead_afterWrite]
    rfl
  have e₁ : xferOk false u = true := by subst hu; exact xferOk_write rfl
  have e₂ : xferOk true
      (afterFailedRead .ap 3 (writeOkEv s.cfg .ap 1 addr ++ notOkEv s.cfg .ap true 3 k) rest k s) = false :=
    xferOk_of_ack_ne (ack_ne_of_failing hk)
  simp only [memRead, apWrite, apRead, h₁, e₁, h₂, e₂, Bool.false_eq_true, if_true, if_false]

end Sys2Proof.Machine
end

