-- ==== Sys2Proof/Laws/Frame.lean ====
section
/-!
SUPPORT. One traversal of each component of a run: whatever relation between states holds of transactions and of the
component's own updates, and is closed under doing one thing after another, holds of the whole component. Every frame
(what a command leaves unchanged) is an application of one of these to a projection of the state.
-/

namespace Sys2Proof.Machine

/-- A relation between states that transactions keep, closed under doing one thing after another. -/
structure Walk (R : State → State → Prop) : Prop where
  refl : ∀ s, R s s
  trans : ∀ {s t u}, R s t → R t u → R s u
  wire : ∀ {s t}, OnWire s t → R s t

/-- Keeping a projection that transactions keep. -/
theorem Walk.keeps {α : Type} (π : State → α) (h : ∀ {s t}, OnWire s t → π t = π s) :
    Walk fun s t => π t = π s :=
  ⟨fun _ => rfl, fun h₁ h₂ => h₂.trans h₁, h⟩

/-- `OnWire` keeps every projection of what is off the wire. -/
theorem Walk.offWire {α : Type} (π : State → α) : Walk fun s t => π t.offWire = π s.offWire :=
  .keeps (fun s => π s.offWire) fun h => by rw [h.offWire]

namespace Walk

variable {R : State → State → Prop}

theorem andThen (w : Walk R) {s : State} {r : Res} {f : State → Res} (h₁ : R s r.st) (h₂ : ∀ t, R t (f t).st) :
    R s (r.andThen f).st := Res.andThen_rel R w.trans h₁ h₂

/-- `LINK_INIT` (42_link_power_ap_cpu.md R173). -/
theorem linkInit (w : Walk R) (pulse : ∀ s, R s (hwResetPulse s)) (ensure : ∀ s, R s (ensureSession s))
    (accept : ∀ s, R s (acceptIdcode s)) (s : State) : R s (linkInit s).st := by
  have hl : ∀ s, R s (lineReset s) := fun s => w.wire ((OnWire.drive _ _ s).trans (OnWire.drive _ _ _))
  refine w.andThen ?_ accept
  rw [checkXfer_st]
  exact w.trans (ensure s) <| w.trans (pulse _) <| w.trans (hl _) <| w.trans (w.wire (OnWire.jtagToSwd _)) <|
    w.trans (hl _) (w.wire (OnWire.xfer _ _ _ _ _))

/-- `AP_CONFIG` (42_link_power_ap_cpu.md R190). -/
theorem apConfig (w : Walk R) (ensure : ∀ s, R s (ensureSession s)) (accept : ∀ s, R s (acceptIdr s))
    (device : ∀ s, R s (deviceParameters s)) (s : State) : R s (apConfig s).st := by
  have hx : ∀ port rnw a v s, R s (xfer port rnw a v s) := fun _ _ _ _ _ => w.wire (OnWire.xfer _ _ _ _ _)
  refine w.andThen ?_ fun t => w.andThen ?_ fun t => w.andThen ?_ fun t => w.andThen ?_ fun t => ?_
  · rw [checkXfer_st]; exact w.trans (ensure s) (hx _ _ _ _ _)
  · rw [checkXfer_st]; exact hx _ _ _ _ _
  · rw [checkLocked_st]; exact accept t
  · rw [checkXfer_st]; exact w.trans (device t) (hx _ _ _ _ _)
  · rw [checkXfer_st]; exact hx _ _ _ _ _

theorem memWriteOr (w : Walk R) (e : ErrorKind) (addr data : Word) (s : State) :
    R s (memWriteOr e addr data s).st := w.wire (OnWire.memWriteOr _ _ _ _)

theorem erasePages (w : Walk R) (index : ∀ k s, R s { s with index := k }) (prog : ∀ p s, R s (setProgress p s))
    (base : Word) (pages n i : Nat) (s : State) : R s (erasePages base pages n i s).st := by
  induction n generalizing i s with
  | zero => exact w.refl s
  | succ n ih =>
    exact w.andThen (w.trans (index i s) (w.wire (OnWire.pageErase _ _))) fun t => w.trans (prog _ t) (ih _ _)

/-- `FLASH_ERASE` (44_flash.md R243). -/
theorem flashErase (w : Walk R) (index : ∀ k s, R s { s with index := k }) (prog : ∀ p s, R s (setProgress p s))
    (base len : Word) (s : State) : R s (flashErase base len s).st := by
  refine w.andThen ?_ fun t => prog _ t
  split_ifs
  · exact w.wire (OnWire.massErase s)
  · exact w.erasePages index prog base _ _ 0 s

theorem strideProgress (w : Walk R) (prog : ∀ p s, R s (setProgress p s)) (lo hi n k : Nat) (s : State) :
    R s (strideProgress lo hi n k s) := by
  unfold Machine.strideProgress
  split_ifs
  · exact prog _ s
  · exact w.refl s

theorem writeImageWord (w : Walk R) (index : ∀ k s, R s { s with index := k })
    (image : ∀ len k s, R s (noteImageRead len k s)) (base len : Word) (k : Nat) (s : State) :
    R s (writeImageWord base len k s).st :=
  w.andThen (w.trans (index k s) (w.memWriteOr _ _ _ _)) fun _ => w.andThen (w.memWriteOr _ _ _ _) fun t =>
    w.andThen (w.trans (image len k t) (w.memWriteOr _ _ _ _)) fun _ => w.andThen (w.memWriteOr _ _ _ _) fun _ =>
    w.wire (OnWire.delay _ _)

theorem writeWords (w : Walk R) (index : ∀ k s, R s { s with index := k }) (prog : ∀ p s, R s (setProgress p s))
    (image : ∀ len k s, R s (noteImageRead len k s)) (base len : Word) (n m k : Nat) (s : State) :
    R s (writeWords base len n m k s).st := by
  induction m generalizing k s with
  | zero => exact w.refl s
  | succ m ih =>
    exact w.andThen (w.writeImageWord index image base len k s) fun t =>
      w.trans (w.strideProgress prog _ _ _ _ t) (ih _ _)

/-- `FLASH_WRITE` (44_flash.md R251). -/
theorem flashWrite (w : Walk R) (index : ∀ k s, R s { s with index := k }) (prog : ∀ p s, R s (setProgress p s))
    (image : ∀ len k s, R s (noteImageRead len k s)) (base len : Word) (s : State) :
    R s (flashWrite base len s).st :=
  w.andThen (w.trans (w.trans (prog _ s) (index _ _)) (w.memWriteOr _ _ _ _)) fun _ =>
    w.andThen (w.writeWords index prog image base len _ _ _ _) fun t => prog _ t

theorem verifyWords (w : Walk R) (index : ∀ k s, R s { s with index := k }) (prog : ∀ p s, R s (setProgress p s))
    (image : ∀ len k s, R s (noteImageRead len k s)) (compare : ∀ len k v s, R s (compareWord len k v s).st)
    (base len : Word) (n m k : Nat) (s : State) : R s (verifyWords base len n m k s).st := by
  induction m generalizing k s with
  | zero => exact w.refl s
  | succ m ih =>
    refine w.andThen ?_ fun t => w.trans (w.strideProgress prog _ _ _ _ t) (ih _ _)
    exact w.trans (index k s) <| w.trans (w.wire (OnWire.memRead _ _)) <| w.trans (image len k _) (compare _ _ _ _)

/-- `FLASH_VERIFY` (44_flash.md R260). -/
theorem flashVerify (w : Walk R) (index : ∀ k s, R s { s with index := k }) (prog : ∀ p s, R s (setProgress p s))
    (image : ∀ len k s, R s (noteImageRead len k s)) (compare : ∀ len k v s, R s (compareWord len k v s).st)
    (start : ∀ s, R s { s with errCount := 0 }) (finish : ∀ s, R s (verifyEnd s).st) (base len : Word) (s : State) :
    R s (flashVerify base len s).st :=
  w.andThen (w.trans (start s) <| w.trans (prog _ _) (w.verifyWords index prog image compare base len _ _ _ _)) finish

end Walk

end Sys2Proof.Machine
end

