-- ==== Sys2Proof/Laws/PerInstr.lean ====
section
/-!
SUPPORT. One statement per instruction, about the instruction as syntax: in its encoding the reserved bits [15:12] of a
command word are 0 (spec 30_encoding.md R100, R103), and a request header begins with the start bit 1 (R90, R92).
-/

namespace Sys2Proof.Laws

/-- The encoding's fixed bits: 0 in [15:12] of a command word, the start bit of a header. -/
def ReservedBitsZero.Statement (i : Instr) : Prop :=
  match encode i with
  | .cmd w => w.extractLsb' 12 4 = 0
  | .header w => w.getLsbD 0 = true

theorem ReservedBitsZero.clkCycle : Statement .clkCycle := rfl
theorem ReservedBitsZero.writeBit (b : Bool) : Statement (.writeBit b) := by cases b <;> rfl
theorem ReservedBitsZero.readBit : Statement .readBit := rfl
theorem ReservedBitsZero.writeWord : Statement .writeWord := rfl
theorem ReservedBitsZero.readWord : Statement .readWord := rfl
theorem ReservedBitsZero.hwResetPulse : Statement .hwResetPulse := rfl
theorem ReservedBitsZero.lineReset : Statement .lineReset := rfl
theorem ReservedBitsZero.jtagToSwd : Statement .jtagToSwd := rfl
theorem ReservedBitsZero.linkInit : Statement .linkInit := rfl
theorem ReservedBitsZero.xfer (port : Port) (rnw : Bool) (a : BitVec 2) : Statement (.xfer port rnw a) := by
  have h : ∀ a : BitVec 2, ∀ r p : Bool,
      (0x0020 ||| bitAt r 8 ||| bitAt (a.getLsbD 0) 9 ||| bitAt (a.getLsbD 1) 10 ||| bitAt p 11).extractLsb' 12 4 = 0#4 := by
    decide
  exact h a rnw (bitOfPort port)
theorem ReservedBitsZero.powerUp : Statement .powerUp := rfl
theorem ReservedBitsZero.apConfig : Statement .apConfig := rfl
theorem ReservedBitsZero.cpuHalt : Statement .cpuHalt := rfl
theorem ReservedBitsZero.cpuReset : Statement .cpuReset := rfl
theorem ReservedBitsZero.memRead : Statement .memRead := rfl
theorem ReservedBitsZero.memWrite : Statement .memWrite := rfl
theorem ReservedBitsZero.flashErase : Statement .flashErase := rfl
theorem ReservedBitsZero.massErase : Statement .massErase := rfl
theorem ReservedBitsZero.pageErase : Statement .pageErase := rfl
theorem ReservedBitsZero.flashWrite : Statement .flashWrite := rfl
theorem ReservedBitsZero.flashVerify : Statement .flashVerify := rfl
theorem ReservedBitsZero.run : Statement .run := rfl
theorem ReservedBitsZero.resetPinTest : Statement .resetPinTest := rfl
theorem ReservedBitsZero.tick : Statement .tick := rfl
theorem ReservedBitsZero.press : Statement .press := rfl
theorem ReservedBitsZero.reqDoc7W0 : Statement .reqDoc7W0 := rfl
theorem ReservedBitsZero.reqDoc7W1 : Statement .reqDoc7W1 := rfl
theorem ReservedBitsZero.reqDoc7W2 : Statement .reqDoc7W2 := rfl
theorem ReservedBitsZero.reqDoc7W3 : Statement .reqDoc7W3 := rfl
theorem ReservedBitsZero.reqDoc7R0 : Statement .reqDoc7R0 := rfl
theorem ReservedBitsZero.reqDoc7R1 : Statement .reqDoc7R1 := rfl
theorem ReservedBitsZero.reqDoc7R2 : Statement .reqDoc7R2 := rfl
theorem ReservedBitsZero.reqDoc7R3 : Statement .reqDoc7R3 := rfl
theorem ReservedBitsZero.reqAdiv5DpW0 : Statement .reqAdiv5DpW0 := rfl
theorem ReservedBitsZero.reqAdiv5DpW1 : Statement .reqAdiv5DpW1 := rfl
theorem ReservedBitsZero.reqAdiv5DpW2 : Statement .reqAdiv5DpW2 := rfl
theorem ReservedBitsZero.reqAdiv5DpW3 : Statement .reqAdiv5DpW3 := rfl
theorem ReservedBitsZero.reqAdiv5DpR0 : Statement .reqAdiv5DpR0 := rfl
theorem ReservedBitsZero.reqAdiv5DpR1 : Statement .reqAdiv5DpR1 := rfl
theorem ReservedBitsZero.reqAdiv5DpR2 : Statement .reqAdiv5DpR2 := rfl
theorem ReservedBitsZero.reqAdiv5DpR3 : Statement .reqAdiv5DpR3 := rfl
theorem ReservedBitsZero.reqAdiv5ApW0 : Statement .reqAdiv5ApW0 := rfl
theorem ReservedBitsZero.reqAdiv5ApW1 : Statement .reqAdiv5ApW1 := rfl
theorem ReservedBitsZero.reqAdiv5ApW2 : Statement .reqAdiv5ApW2 := rfl
theorem ReservedBitsZero.reqAdiv5ApW3 : Statement .reqAdiv5ApW3 := rfl
theorem ReservedBitsZero.reqAdiv5ApR0 : Statement .reqAdiv5ApR0 := rfl
theorem ReservedBitsZero.reqAdiv5ApR1 : Statement .reqAdiv5ApR1 := rfl
theorem ReservedBitsZero.reqAdiv5ApR2 : Statement .reqAdiv5ApR2 := rfl
theorem ReservedBitsZero.reqAdiv5ApR3 : Statement .reqAdiv5ApR3 := rfl

end Sys2Proof.Laws
end

