-- ==== Sys2Proof/Laws/Progress.lean ====
section
/-!
SUPPORT. Laws of progress and its notifications: what setting the progress notifies, one value after another; the values
the flash commands set, word by word and page by page; the reads of a verify; the transactions that connect a run.
-/

namespace Sys2Proof.Machine

/-! ### Notifications. -/

@[simp] theorem statusesOf_append (l m : List Note) : statusesOf (l ++ m) = statusesOf l ++ statusesOf m := by
  induction l with
  | nil => rfl
  | cons n l ih => cases n <;> simp [statusesOf, ih]

@[simp] theorem progressOf_append (l m : List Note) : progressOf (l ++ m) = progressOf l ++ progressOf m := by
  induction l with
  | nil => rfl
  | cons n l ih => cases n <;> simp [progressOf, ih]

@[simp] theorem statusesOf_progressNotes (p : Nat) (vals : List Nat) : statusesOf (progressNotes p vals) = [] := by
  induction vals generalizing p with
  | nil => rfl
  | cons q vals ih => simp only [progressNotes, statusesOf_append, ih]; split_ifs <;> rfl

/-- Setting some values and then others notifies as setting them all; the others start from the last of the first. -/
theorem progressNotes_append (p : Nat) (xs ys : List Nat) :
    progressNotes p (xs ++ ys) = progressNotes p xs ++ progressNotes (xs.getLastD p) ys := by
  induction xs generalizing p with
  | nil => rfl
  | cons x xs ih =>
    rw [List.cons_append, progressNotes, progressNotes, ih, List.append_assoc, List.getLastD_cons]

/-- `SetProgress` notifies its one value (44_flash.md R240). -/
theorem setProgress_note (p : Nat) (s : State) : (setProgress p s).note = s.note ++ progressNotes s.progress [p] := by
  simp only [setProgress_fields, progressNotes]
  split_ifs <;> simp

/-! ### The values a flash command sets. -/

/-- The operation's test of a word is the rule's (44_flash.md R251, R260). -/
theorem isProgressWord_eq (cfg : Params) (k : Nat) : isProgressWord cfg k = setsProgress cfg k := by
  unfold isProgressWord setsProgress
  split_ifs <;> rfl

theorem pageValues_succ (cfg : Params) (pages i : Nat) :
    pageValues cfg pages (i + 1) = pageValues cfg pages i ++ [cfg.pEraseEnd * (i + 1) / pages] := by
  simp [pageValues, List.range_succ]

theorem strideValues_succ (cfg : Params) (lo hi n m : Nat) :
    strideValues cfg lo hi n (m + 1)
      = strideValues cfg lo hi n m ++ if setsProgress cfg m then [wordProgress lo hi n m] else [] := by
  simp only [strideValues, List.range_succ, List.filter_append, List.map_append]
  congr 1
  by_cases h : setsProgress cfg m = true <;> simp [h, wordProgress]

/-- The progress update after a word: what it notifies and leaves. -/
theorem strideProgress_note (lo hi n k : Nat) (s : State) :
    (strideProgress lo hi n k s).note
      = s.note ++ progressNotes s.progress (if setsProgress s.cfg k then [wordProgress lo hi n k] else []) := by
  unfold strideProgress
  rw [isProgressWord_eq]
  split_ifs
  · exact setProgress_note _ s
  · simp [progressNotes]

/-! ### The reads of a verify and the transactions of a run. -/

theorem verifyReadsEv_append (cfg : Params) (base : Word) (k : Nat) (ws zs : List Word) :
    verifyReadsEv cfg base k (ws ++ zs) = verifyReadsEv cfg base k ws ++ verifyReadsEv cfg base (k + ws.length) zs := by
  induction ws generalizing k with
  | nil => rfl
  | cons w ws ih =>
    simp only [List.cons_append, verifyReadsEv, ih, List.append_assoc, List.length_cons]
    rw [Nat.add_right_comm, Nat.add_assoc]

/-- One more transaction of a run's connection: its events come last. -/
theorem connectingEv_succ (cfg : Params) (w v x : Word) (m : Nat) (y : Sent) (h : (connection cfg w v x)[m]? = some y) :
    connectingEv cfg w v x (m + 1) = connectingEv cfg w v x m ++ sentEv cfg y := by
  simp [connectingEv, List.take_add_one, h]

/-- One more transaction of a run's connection: its answers come last. -/
theorem connectingAnswers_succ (cfg : Params) (w v x : Word) (m : Nat) (y : Sent)
    (h : (connection cfg w v x)[m]? = some y) :
    connectingAnswers cfg w v x (m + 1) = connectingAnswers cfg w v x m ++ sentAnswers cfg y := by
  simp [connectingAnswers, List.take_add_one, h]

end Sys2Proof.Machine
end

