-- ==== Sys2Proof/Laws/Reach.lean ====
section
/-!
SUPPORT. What every command keeps, whatever the target answers: `Reaches`, closed under doing one thing after another,
with one law for each component of a run and for the run itself.
-/

namespace Sys2Proof.Machine

/-- What holds between the state before and after any part of a command that handles an image of `len` bytes. -/
structure Reaches (len : Nat) (s t : State) : Prop where
  /-- The lines, the time, `EV` and `REG.step` follow the same events. -/
  events : ∃ evs, t.swclk = clkAfter s.swclk evs ∧ t.dioOut = dioAfter s.dioOut evs ∧ t.dioDir = dirAfter s.dioDir evs
    ∧ t.nreset = rstAfter s.nreset evs ∧ t.timeUs = s.timeUs + delayOf evs ∧ t.evRev = evs.reverse ++ s.evRev
    ∧ t.stepCount = s.stepCount + evs.length ∧ samplesOnlyInput s.dioDir evs = true
    ∧ clkAfter true evs = true ∧ rstAfter true evs = true
  /-- The host's side. -/
  host : t.hostSide = s.hostSide
  /-- The reference target's memory. -/
  mem : TargetMemoryInv s → TargetMemoryInv t
  /-- The sessions. -/
  sess : SessionInv s → SessionInv t
  /-- Progress is a percentage. -/
  prog : s.cfg.valid = true → s.progress ≤ 100 → t.progress ≤ 100
  /-- The only model fault recorded is that of an image byte past the host's, and none is where there is no such byte. -/
  fault : (t.faults = s.faults ∨ t.faults = recorded .imageShort s.faults)
    ∧ (len ≤ s.image.length → t.faults = s.faults)

theorem cfg_of_hostSide {s t : State} (h : t.hostSide = s.hostSide) : t.cfg = s.cfg := by
  simp only [State.hostSide, Prod.mk.injEq] at h; exact h.1

theorem image_of_hostSide {s t : State} (h : t.hostSide = s.hostSide) : t.image = s.image := by
  simp only [State.hostSide, Prod.mk.injEq] at h; exact h.2.2.2.2.2.1

theorem argLen_of_hostSide {s t : State} (h : t.hostSide = s.hostSide) : t.argLen = s.argLen := by
  simp only [State.hostSide, Prod.mk.injEq] at h; exact h.2.2.2.2.1

namespace Reaches

theorem cfg {len : Nat} {s t : State} (h : Reaches len s t) : t.cfg = s.cfg := cfg_of_hostSide h.host
theorem image {len : Nat} {s t : State} (h : Reaches len s t) : t.image = s.image := image_of_hostSide h.host

/-- A change of state that issues no event and leaves the host's side alone. -/
theorem silent {len : Nat} {s t : State} (hw : t.offWire.hostSide = s.offWire.hostSide)
    (hl : (t.swclk, t.dioOut, t.dioDir, t.nreset, t.timeUs, t.evRev, t.stepCount)
      = (s.swclk, s.dioOut, s.dioDir, s.nreset, s.timeUs, s.evRev, s.stepCount))
    (mem : TargetMemoryInv s → TargetMemoryInv t) (sess : SessionInv s → SessionInv t)
    (prog : s.cfg.valid = true → s.progress ≤ 100 → t.progress ≤ 100)
    (fault : (t.faults = s.faults ∨ t.faults = recorded .imageShort s.faults)
      ∧ (len ≤ s.image.length → t.faults = s.faults) := by exact ⟨.inl rfl, fun _ => rfl⟩) : Reaches len s t := by
  simp only [Prod.mk.injEq] at hl
  obtain ⟨h1, h2, h3, h4, h5, h6, h7⟩ := hl
  exact ⟨⟨[], h1, h2, h3, h4, h5, h6, h7, rfl, rfl, rfl⟩, hw, mem, sess, prog, fault⟩

theorem refl {len : Nat} (s : State) : Reaches len s s := silent rfl rfl id id fun _ => id

theorem trans {len : Nat} {s t u : State} (h₁ : Reaches len s t) (h₂ : Reaches len t u) : Reaches len s u := by
  have hc := h₁.cfg
  have hi := h₁.image
  obtain ⟨⟨xs, a1, a2, a3, a4, a5, a6, a7, a8, a9, a10⟩, hx, mx, sx, px, fx⟩ := h₁
  obtain ⟨⟨ys, b1, b2, b3, b4, b5, b6, b7, b8, b9, b10⟩, hy, my, sy, py, fy⟩ := h₂
  refine ⟨⟨xs ++ ys, ?_⟩, hy.trans hx, fun h => my (mx h), fun h => sy (sx h),
    fun hv h => py (hc ▸ hv) (px hv h), ?_, fun hl => (fy.2 (hi ▸ hl)).trans (fx.2 hl)⟩
  rotate_left
  · obtain h | h := fx.1 <;> obtain h' | h' := fy.1 <;> simp [h, h']
  simp only [clkAfter_append, dioAfter_append, dirAfter_append, rstAfter_append, delayOf_append,
    samplesOnlyInput_append, List.reverse_append, List.length_append, ← a1, ← a2, ← a3, ← a4, a8, a9, a10, b8, b9, b10,
    b1, b2, b3, b4, b5, b6, b7, a5, a6, a7, List.append_assoc, Nat.add_assoc, Bool.and_self, and_self]

theorem ofWire {len : Nat} {s t : State} (h : OnWire s t) : Reaches len s t := by
  have hc := h.cfg
  have hm := h.mem
  obtain ⟨⟨evs, he, hs, hr, hk⟩, -⟩ := h
  have hse : t.session = s.session := by rw [he]; rfl
  refine ⟨⟨evs, ?_, ?_, ?_, ?_, ?_, ?_, ?_, hs, hk, hr true⟩, ?_, hm, ?_, ?_, ?_⟩
  case refine_9 => intro h; unfold SessionInv at *; rw [hse, hc]; exact h
  all_goals (rw [he]; simp [play, State.hostSide])

theorem andThen {len : Nat} {s : State} {r : Res} {f : State → Res} (h₁ : Reaches len s r.st)
    (h₂ : ∀ t, Reaches len s t → Reaches len t (f t).st) : Reaches len s (r.andThen f).st := by
  cases r with
  | ok t => exact trans h₁ (h₂ t h₁)
  | raised e t => exact h₁

/-! ### The primitives above the wire. -/

theorem pulse {len : Nat} (s : State) : Reaches len s (hwResetPulse s) := by
  have he : hwResetPulse s = play (pulseEv s.cfg.tRstHoldUs s.cfg.tRstBootUs) s := by
    rw [hwResetPulse, setRst_eq_play, setRst_eq_play, delay_eq_play, delay_eq_play, ← play_append, ← play_append,
      ← play_append]
    rfl
  rw [he]
  exact ⟨⟨pulseEv s.cfg.tRstHoldUs s.cfg.tRstBootUs, rfl, rfl, rfl, rfl, rfl, rfl, rfl, rfl, rfl, rfl⟩, rfl, id, id,
    fun _ => id, .inl rfl, fun _ => rfl⟩

theorem setStatus {len : Nat} (v : Status) (s : State) : Reaches len s (setStatus v s) :=
  silent rfl rfl id id fun _ => id

theorem setProgress {len : Nat} (p : Nat) (s : State) (h : s.cfg.valid = true → p ≤ 100) :
    Reaches len s (setProgress p s) := silent rfl rfl id id fun hv _ => h hv

theorem setIndex {len : Nat} (k : Nat) (s : State) : Reaches len s { s with index := k } :=
  silent rfl rfl id id fun _ => id

theorem setCount {len : Nat} (n : Nat) (d : Word) (s : State) : Reaches len s { s with errCount := n, resData := d } :=
  silent rfl rfl id id fun _ => id

theorem noteImageRead (len : Word) (k : Nat) (s : State) : Reaches len.toNat s (noteImageRead len k s) := by
  refine silent rfl rfl id id (fun _ => id) ⟨?_, fun hl => ?_⟩
  · simp only [noteImageRead_fields]
    split_ifs
    · exact .inr rfl
    · exact .inl rfl
  · simp [readsPastImage_of_supplied _ _ _ hl]

/-! ### Link and access port. -/

/-- Session fields other than the device parameters. -/
theorem updateSession {len : Nat} (f : Session → Session) (s : State)
    (hf : ∀ x, (f x).gen2 = x.gen2 ∧ ((f x).mscBase = x.mscBase ∨ (f x).mscBase = some s.cfg.mscBase)
      ∧ ((f x).pageSize = x.pageSize ∨ (f x).pageSize = some s.cfg.pageSize)) :
    Reaches len s (updateSession f s) := by
  refine silent rfl rfl id (fun h y hy => ?_) fun _ => id
  simp only [updateSession_fields, Option.map_eq_some_iff] at hy
  obtain ⟨x, hx, rfl⟩ := hy
  obtain ⟨h1, h2, h3⟩ := h x hx
  obtain ⟨f1, f2, f3⟩ := hf x
  exact ⟨f1.trans h1, f2.elim (fun e => e ▸ h2) .inr, f3.elim (fun e => e ▸ h3) .inr⟩

theorem ensureSession {len : Nat} (s : State) : Reaches len s (ensureSession s) := by
  refine silent rfl rfl id (fun h y hy => ?_) fun _ => id
  simp only [ensureSession_fields, Option.some.injEq] at hy
  subst hy
  cases hs : s.session with
  | none => exact ⟨rfl, .inl rfl, .inl rfl⟩
  | some x => exact h x hs

theorem setData {len : Nat} (d : Word) (s : State) : Reaches len s { s with resData := d } :=
  silent rfl rfl id id fun _ => id

theorem lineReset {len : Nat} (s : State) : Reaches len s (lineReset s) :=
  ofWire ((OnWire.drive _ _ _).trans (OnWire.drive _ _ _))

theorem linkSequence {len : Nat} (s : State) : Reaches len s (linkSequence s) :=
  (pulse s).trans ((lineReset _).trans ((ofWire (OnWire.writeBits _ _)).trans (lineReset _)))

theorem acceptIdcode {len : Nat} (s : State) : Reaches len s (acceptIdcode s) :=
  (updateSession (fun x => { x with idcode := some s.rdata, core := some (coreOfIdcode s.cfg s.rdata) }) s fun _ => ⟨rfl, .inl rfl, .inl rfl⟩).trans (setData _ _)

theorem linkInit {len : Nat} (s : State) : Reaches len s (linkInit s).st :=
  andThen (by rw [checkXfer_st]; exact (ensureSession s).trans ((linkSequence _).trans (ofWire (OnWire.xfer _ _ _ _ _))))
    fun _ _ => acceptIdcode _

theorem acceptIdr {len : Nat} (s : State) : Reaches len s (acceptIdr s) :=
  (updateSession (fun x => { x with apIdr := some s.rdata }) s fun _ => ⟨rfl, .inl rfl, .inl rfl⟩).trans (setData _ _)

theorem deviceParameters {len : Nat} (s : State) : Reaches len s (deviceParameters s) := by
  unfold Machine.deviceParameters
  split_ifs <;> exact updateSession _ s fun _ => ⟨rfl, .inr rfl, .inr rfl⟩

theorem apConfig {len : Nat} (s : State) : Reaches len s (apConfig s).st := by
  refine andThen ?_ fun t _ => andThen ?_ fun t _ => andThen ?_ fun t _ => andThen ?_ fun t _ => ?_
  · rw [checkXfer_st]; exact (ensureSession s).trans (ofWire (OnWire.xfer _ _ _ _ _))
  · rw [checkXfer_st]; exact ofWire (OnWire.xfer _ _ _ _ _)
  · rw [checkLocked_st]; exact acceptIdr _
  · rw [checkXfer_st]; exact (deviceParameters _).trans (ofWire (OnWire.xfer _ _ _ _ _))
  · rw [checkXfer_st]; exact ofWire (OnWire.xfer _ _ _ _ _)

/-! ### Flash. -/

/-- The bounds of the phases (60_exceptions.md R345). -/
theorem bounds_of_valid {cfg : Params} (h : cfg.valid = true) :
    cfg.pEraseEnd ≤ cfg.pWriteEnd ∧ cfg.pWriteEnd ≤ cfg.pVerifyEnd ∧ cfg.pVerifyEnd ≤ 100 := by
  simp [Params.valid, Params.checks] at h
  exact h.2.2.2.2.2

theorem percent_of_valid {cfg : Params} (h : cfg.valid = true) :
    cfg.pEraseEnd ≤ 100 ∧ cfg.pWriteEnd ≤ 100 ∧ cfg.pVerifyEnd ≤ 100 := by
  have := bounds_of_valid h
  omega

theorem wordProgress_le {lo hi n k : Nat} (h : lo ≤ hi) (hk : k < n) : wordProgress lo hi n k ≤ hi := by
  have : (hi - lo) * (k + 1) / n ≤ hi - lo :=
    Nat.div_le_of_le_mul (by rw [Nat.mul_comm]; exact Nat.mul_le_mul_right _ hk)
  unfold wordProgress
  omega

theorem erasePages {len : Nat} (base : Word) (pages n i : Nat) (s : State) (hn : i + n ≤ pages) :
    Reaches len s (erasePages base pages n i s).st := by
  induction n generalizing i s with
  | zero => exact refl s
  | succ n ih =>
    refine andThen ((setIndex i s).trans (ofWire (OnWire.pageErase _ _))) fun t _ => ?_
    refine trans (setProgress _ _ fun hv => ?_) (ih (i + 1) _ (by omega))
    have hb := bounds_of_valid hv
    have : t.cfg.pEraseEnd * (i + 1) / pages ≤ t.cfg.pEraseEnd :=
      Nat.div_le_of_le_mul (by rw [Nat.mul_comm]; exact Nat.mul_le_mul_right _ (by omega))
    omega

theorem flashErase {len : Nat} (base l : Word) (s : State) : Reaches len s (flashErase base l s).st := by
  refine andThen ?_ fun t _ => setProgress _ _ fun hv => (percent_of_valid hv).1
  split_ifs
  · exact ofWire (OnWire.massErase s)
  · exact erasePages base _ _ 0 s (by omega)

theorem strideProgress {len : Nat} (lo hi n k : Nat) (s : State) (hk : k < n)
    (h : s.cfg.valid = true → lo ≤ hi ∧ hi ≤ 100) : Reaches len s (strideProgress lo hi n k s) := by
  unfold Machine.strideProgress
  split_ifs
  · exact setProgress _ _ fun hv => (wordProgress_le (h hv).1 hk).trans (h hv).2
  · exact refl s

theorem writeImageWord (base len : Word) (k : Nat) (s : State) :
    Reaches len.toNat s (writeImageWord base len k s).st := by
  refine andThen ?_ fun t _ => andThen ?_ fun t _ => andThen ?_ fun t _ => andThen ?_ fun t _ => ?_
  · exact (setIndex k s).trans (ofWire (OnWire.memWriteOr _ _ _ _))
  · exact ofWire (OnWire.memWriteOr _ _ _ _)
  · exact (noteImageRead len k t).trans (ofWire (OnWire.memWriteOr _ _ _ _))
  · exact ofWire (OnWire.memWriteOr _ _ _ _)
  · exact ofWire (OnWire.delay _ _)

theorem writeWords (base len : Word) (n m k : Nat) (s : State) (hk : k + m ≤ n) :
    Reaches len.toNat s (writeWords base len n m k s).st := by
  induction m generalizing k s with
  | zero => exact refl s
  | succ m ih =>
    exact andThen (writeImageWord base len k s) fun t _ =>
      trans (strideProgress _ _ _ _ _ (by omega) fun hv => by have := bounds_of_valid hv; omega)
        (ih (k + 1) _ (by omega))

theorem flashWrite (base len : Word) (s : State) : Reaches len.toNat s (flashWrite base len s).st :=
  andThen (((setProgress _ s fun hv => (percent_of_valid hv).1).trans (setIndex _ _)).trans
      (ofWire (OnWire.memWriteOr _ _ _ _))) fun _ _ =>
    andThen (writeWords base len _ _ 0 _ (by omega)) fun _ _ =>
      setProgress _ _ fun hv => (percent_of_valid hv).2.1

theorem compareWord {l : Nat} (len : Word) (k : Nat) (w : Word) (s : State) :
    Reaches l s (compareWord len k w s).st := by
  unfold Machine.compareWord
  split_ifs
  · exact refl s
  · exact setCount _ _ s
  · exact setCount _ s.resData s

theorem verifyImageWord (base len : Word) (k : Nat) (s : State) :
    Reaches len.toNat s (verifyImageWord base len k s).st :=
  (setIndex k s).trans <| (ofWire (OnWire.memRead _ _)).trans <| (noteImageRead len k _).trans (compareWord _ _ _ _)

theorem verifyWords (base len : Word) (n m k : Nat) (s : State) (hk : k + m ≤ n) :
    Reaches len.toNat s (verifyWords base len n m k s).st := by
  induction m generalizing k s with
  | zero => exact refl s
  | succ m ih =>
    exact andThen (verifyImageWord base len k s) fun t _ =>
      trans (strideProgress _ _ _ _ _ (by omega) fun hv => by have := bounds_of_valid hv; omega)
        (ih (k + 1) _ (by omega))

theorem verifyEnd {l : Nat} (s : State) : Reaches l s (verifyEnd s).st := by
  simp only [Machine.verifyEnd]
  split_ifs
  · exact (setData _ s).trans (setProgress _ _ fun hv => (percent_of_valid hv).2.2)
  · exact setData _ s

theorem flashVerify (base len : Word) (s : State) : Reaches len.toNat s (flashVerify base len s).st := by
  refine andThen ?_ fun t _ => verifyEnd t
  refine ((setCount 0 s.resData s).trans (setProgress _ _ fun hv => (percent_of_valid hv).2.1)).trans
    (verifyWords base len _ _ 0 _ (by omega))

/-! ### The run. -/

theorem startRun {len : Nat} (s : State) : Reaches len s (startRun s) :=
  silent rfl rfl id (fun _ x hx => by cases hx; exact ⟨rfl, .inl rfl, .inl rfl⟩) fun _ _ => Nat.zero_le _

theorem runSteps (base len : Word) (s : State) : Reaches len.toNat s (runSteps base len s).st :=
  andThen (linkInit s) fun _ _ => andThen (ofWire (OnWire.powerUp _)) fun _ _ => andThen (apConfig _) fun _ _ =>
    andThen (ofWire (OnWire.cpuHalt _)) fun _ _ =>
    andThen ((setStatus _ _).trans (flashErase base len _)) fun _ _ => andThen (flashWrite base len _) fun _ _ =>
    andThen ((setStatus _ _).trans (flashVerify base len _)) fun _ _ => ofWire (OnWire.cpuReset _)

theorem endRun {len : Nat} (r : Res) : Reaches len r.st (endRun r) := by
  cases r <;>
    exact silent rfl rfl id (fun _ x hx => by simp [Machine.endRun, takeError] at hx) fun _ => id

/-- A whole run, or a start refused because one is active. -/
theorem run (s : State) : Reaches s.argLen.toNat s (run s) := by
  unfold Machine.run
  split_ifs
  · exact silent rfl rfl id id fun _ => id
  · exact (startRun s).trans ((runSteps _ _ _).trans (endRun _))

end Reaches

end Sys2Proof.Machine
end

