-- ==== Sys2Proof/Laws/Target.lean ====
section
/-!
SUPPORT. Laws of memory access with the reference target of 20_memory.md R80 attached and no ACK injected: what a
transaction, a write and a read make of it.
-/

namespace Sys2Proof.Machine

/-- Writing a word through TAR and DRW, as the reference target takes it. -/
def RefTarget.memWritten (cfg : Params) (r : RefTarget) (addr data : Word) : RefTarget :=
  (({ r with tar := addr } : RefTarget).store cfg addr data).mscEffect cfg addr data

/-- What a transaction leaves of the block while the reference target is `q` after it. -/
def afterTarget (q : RefTarget) (s : State) : State := { s with target := some q }

/-! ### One transaction. -/

theorem RefTarget.respond_write (cfg : Params) (r : RefTarget) (port : Port) (a : BitVec 2) (v : Word)
    (hi : r.inject = []) : r.respond cfg port false a v = (bitsOf cfg.ackOk, r.write cfg port a v) := by
  have hr : ({ r with inject := r.inject.tail } : RefTarget) = r := by rw [hi]; cases r; cases hi; rfl
  simp only [RefTarget.respond, RefTarget.nextAck, hr]
  simp [hi]

theorem RefTarget.respond_read (cfg : Params) (r : RefTarget) (port : Port) (a : BitVec 2) (v w : Word)
    (hi : r.inject = []) (hw : r.read cfg port a = some w) :
    r.respond cfg port true a v = (okRead cfg w (evenParity w), r) := by
  have hr : ({ r with inject := r.inject.tail } : RefTarget) = r := by rw [hi]; cases r; cases hi; rfl
  simp only [RefTarget.respond, RefTarget.nextAck, hr]
  simp [hi, hw, okRead]

/-- A write is acknowledged; the target takes it. -/
theorem xfer_write_target (port : Port) (a : BitVec 2) (v : Word) (r : RefTarget) (s : State) (ht : s.target = some r)
    (hi : r.inject = []) (hd : s.cfg.ackOk ≠ s.cfg.ackWait) :
    xfer port false a v s
      = afterTarget (r.write s.cfg port a v) (afterWrite port a (writeOkEv s.cfg port a v) [] s.cfg.ackOk s) := by
  have hs := targetSees_some port false a v s r ht
  rw [r.respond_write s.cfg port a v hi] at hs
  rw [xfer_write port a v [] s hd (by rw [hs]; simp), hs]
  rfl

/-- A read is acknowledged; the target gives the word its registers hold, with even parity. -/
theorem xfer_read_target (port : Port) (a : BitVec 2) (v w : Word) (r : RefTarget) (s : State)
    (ht : s.target = some r) (hi : r.inject = []) (hd : s.cfg.ackOk ≠ s.cfg.ackWait)
    (hw : r.read s.cfg port a = some w) :
    xfer port true a v s
      = afterTarget r (afterRead port a (readOkEv s.cfg port a w (evenParity w)) [] w (evenParity w) s) := by
  have hs := targetSees_some port true a v s r ht
  rw [r.respond_read s.cfg port a v w hi hw] at hs
  rw [xfer_read port a v w (evenParity w) [] s hd (by rw [hs]; simp), hs]
  rfl

/-! ### Registers a write leaves alone. -/

theorem RefTarget.store_rest (cfg : Params) (r : RefTarget) (a v : Word) :
    (r.store cfg a v).inject = r.inject ∧ (r.store cfg a v).select = r.select ∧ (r.store cfg a v).idr = r.idr
      ∧ (r.store cfg a v).flashSize = r.flashSize ∧ (r.store cfg a v).wren = r.wren
      ∧ (r.store cfg a v).latched = r.latched ∧ (r.store cfg a v).addrb = r.addrb
      ∧ (r.store cfg a v).wdata = r.wdata ∧ (r.store cfg a v).tar = r.tar :=
  ⟨rfl, rfl, rfl, rfl, rfl, rfl, rfl, rfl, rfl⟩

/-- The flash controller's effect leaves the access port, the size and the injected ACKs alone. -/
theorem RefTarget.mscEffect_rest (cfg : Params) (r : RefTarget) (a v : Word) :
    (r.mscEffect cfg a v).inject = r.inject ∧ (r.mscEffect cfg a v).select = r.select
      ∧ (r.mscEffect cfg a v).idr = r.idr ∧ (r.mscEffect cfg a v).flashSize = r.flashSize
      ∧ (r.mscEffect cfg a v).tar = r.tar := by
  unfold RefTarget.mscEffect
  split_ifs <;> try exact ⟨rfl, rfl, rfl, rfl, rfl⟩
  unfold RefTarget.command
  split_ifs <;> exact ⟨rfl, rfl, rfl, rfl, rfl⟩

/-- A memory write leaves the bank selection, the IDR, the size and the injected ACKs alone. -/
theorem RefTarget.memWritten_rest (cfg : Params) (r : RefTarget) (addr data : Word) :
    (r.memWritten cfg addr data).inject = r.inject ∧ (r.memWritten cfg addr data).select = r.select
      ∧ (r.memWritten cfg addr data).idr = r.idr ∧ (r.memWritten cfg addr data).flashSize = r.flashSize := by
  obtain ⟨h₁, h₂, h₃, h₄, -⟩ := RefTarget.mscEffect_rest cfg
    (({ r with tar := addr } : RefTarget).store cfg addr data) addr data
  exact ⟨h₁, h₂, h₃, h₄⟩

/-- A memory write keeps the memory canonical. -/
theorem RefTarget.memWritten_canonical (cfg : Params) (r : RefTarget) (addr data : Word) (h : r.canonical cfg) :
    (r.memWritten cfg addr data).canonical cfg :=
  RefTarget.mscEffect_canonical _ _ _ _ (RefTarget.store_canonical cfg { r with tar := addr } addr data h)

/-- A memory write that is no flash command changes the memory at its address alone. -/
theorem RefTarget.load_memWritten (cfg : Params) (r : RefTarget) (addr data b : Word)
    (hw : addr ≠ mscWritecmd cfg) (h : r.canonical cfg) :
    (r.memWritten cfg addr data).load cfg b = if b = addr then data else r.load cfg b := by
  have hm : (r.memWritten cfg addr data).load cfg b
      = (({ r with tar := addr } : RefTarget).store cfg addr data).load cfg b := by
    unfold RefTarget.memWritten RefTarget.mscEffect
    split_ifs <;> rfl
  rw [hm]
  split_ifs with hb
  · subst hb
    exact Memory.get_put_same _ _ _ h
  · exact Memory.get_put_other _ _ fun e => hb (BitVec.eq_of_toNat_eq e)

/-! ### `MemWrite` and `MemRead` (43_memory_access.md R220, R222). -/

/-- What a memory write leaves. -/
theorem memWrite_target (addr data : Word) (r : RefTarget) (s : State) (ht : s.target = some r) (hi : r.inject = [])
    (hd : s.cfg.ackOk ≠ s.cfg.ackWait) :
    memWrite addr data s = (true, afterTarget (r.memWritten s.cfg addr data)
      (afterWrite .ap 3 (memWriteEv s.cfg addr data) [] s.cfg.ackOk s)) := by
  have h₁ := xfer_write_target .ap 1 addr r s ht hi hd
  generalize hu : afterTarget (r.write s.cfg .ap 1 addr)
    (afterWrite .ap 1 (writeOkEv s.cfg .ap 1 addr) [] s.cfg.ackOk s) = u at h₁
  have h₂ : xfer .ap false 3 data u = afterTarget (r.memWritten s.cfg addr data)
      (afterWrite .ap 3 (memWriteEv s.cfg addr data) [] s.cfg.ackOk s) := by
    subst hu
    rw [xfer_write_target .ap 3 data (r.write s.cfg .ap 1 addr) (afterTarget _ (afterWrite _ _ _ _ _ _)) rfl hi hd]
    simp only [afterTarget, afterWrite, memWriteEv, play_append]
    rfl
  have e₁ : xferOk false u = true := by subst hu; exact xferOk_write rfl
  have e₂ : xferOk false (afterTarget (r.memWritten s.cfg addr data)
      (afterWrite .ap 3 (memWriteEv s.cfg addr data) [] s.cfg.ackOk s)) = true := xferOk_write rfl
  simp only [memWrite, apWrite, h₁, e₁, h₂, e₂, if_true]

theorem memWriteOr_target (e : ErrorKind) (addr data : Word) (r : RefTarget) (s : State) (ht : s.target = some r)
    (hi : r.inject = []) (hd : s.cfg.ackOk ≠ s.cfg.ackWait) :
    memWriteOr e addr data s = .ok (afterTarget (r.memWritten s.cfg addr data)
      (afterWrite .ap 3 (memWriteEv s.cfg addr data) [] s.cfg.ackOk s)) := by
  rw [memWriteOr, memWrite_target addr data r s ht hi hd]
  rfl

/-- A memory read outside bank 0xF gives the word at its address and leaves the memory alone. -/
theorem memRead_target (addr : Word) (r : RefTarget) (s : State) (ht : s.target = some r) (hi : r.inject = [])
    (hd : s.cfg.ackOk ≠ s.cfg.ackWait) (hb : r.select.extractLsb' 4 4 ≠ 0xF) :
    memRead addr s = ⟨true, r.load s.cfg addr, afterTarget { r with tar := addr }
      (afterRead .ap 3 (memReadEv s.cfg addr (r.load s.cfg addr) (evenParity (r.load s.cfg addr))) []
        (r.load s.cfg addr) (evenParity (r.load s.cfg addr)) s)⟩ := by
  have h₁ := xfer_write_target .ap 1 addr r s ht hi hd
  generalize hu : afterTarget (r.write s.cfg .ap 1 addr)
    (afterWrite .ap 1 (writeOkEv s.cfg .ap 1 addr) [] s.cfg.ackOk s) = u at h₁
  generalize hw : r.load s.cfg addr = w
  have hr : (r.write s.cfg .ap 1 addr).read s.cfg .ap 3 = some w := by
    rw [← hw]
    change some (if r.select.extractLsb' 4 4 = 0xF then _ else _) = _
    rw [if_neg hb]
    rfl
  have h₂ : xfer .ap true 3 0 u = afterTarget { r with tar := addr }
      (afterRead .ap 3 (memReadEv s.cfg addr w (evenParity w)) [] w (evenParity w) s) := by
    subst hu
    rw [xfer_read_target .ap 3 0 w (r.write s.cfg .ap 1 addr) (afterTarget _ (afterWrite _ _ _ _ _ _)) rfl hi hd hr]
    simp only [afterTarget, afterRead, afterWrite, memReadEv, play_append]
    rfl
  have e₁ : xferOk false u = true := by subst hu; exact xferOk_write rfl
  have e₂ : xferOk true (afterTarget { r with tar := addr }
      (afterRead .ap 3 (memReadEv s.cfg addr w (evenParity w)) [] w (evenParity w) s)) = true :=
    xferOk_read rfl (parityAccepted_even _ _)
  simp only [memRead, apWrite, apRead, h₁, e₁, h₂, e₂, if_true]
  rfl

end Sys2Proof.Machine
end

