-- ==== Sys2Proof/Tests/Slice0.lean ====
section
/-!
SUPPORT. Tests. Expected results are those of spec/95_test_vectors.md (V2.1 to V2.15, P1 to P4) or words written out
from the encodings of spec/30_encoding.md; and the witnesses: for every obligation with hypotheses, a concrete state
and operands that meet them.
-/

namespace Sys2Proof.Machine.Tests

-- The tests are evaluated one after another: a thread for each would not fit the build's memory.
set_option Elab.async false

/-! ### Helpers. -/

/-- The parameters of the vectors: the reference values, `T_HALF_US = 1`, no settle delay. -/
def cfg : Params :=
  { Params.reference with tHalfUs := 1, tPageSettleUs := 0, tMassSettleUs := 0, tWordSettleUs := 0 }

/-- The reference target of the vectors. -/
def target : RefTarget where
  idcode := 0x2BA01477
  ctrlstat := 0
  select := 0
  csw := 0
  tar := 0
  idr := 0x24770011
  mem := []
  wren := false
  addrb := 0
  wdata := 0
  latched := 0
  flashSize := 0x00100000
  inject := []

/-- The reset state with scripted answers. -/
def scripted (answers : List Bool) : State := { State.reset with cfg := cfg, answers := answers }

/-- The reset state with the reference target and the operands of a command. -/
def attached (addr data len : Word) (image : List Byte) : State :=
  { State.reset with cfg := cfg, target := some target, argAddr := addr, argData := data, argLen := len, image := image }

/-- The reset state with operands and no target. -/
def operands (addr len : Word) (image : List Byte) (answers : List Bool) : State :=
  { scripted answers with argAddr := addr, argLen := len, image := image }

/-- A property of the next state. -/
def holds (o : Host.Outcome State Fault Refusal) (f : State → Bool) : Bool :=
  match o with
  | .next t => f t
  | .fault _ => false
  | .refused _ => false

/-- The word the reference target holds at an address after a command. -/
def loads (t : State) (a : Word) : Option Word := t.target.map fun r => r.load t.cfg a

/-- The bytes 01 to 05 (S6). -/
def image5 : List Byte := [1, 2, 3, 4, 5]

/-! ### Decoding: words written out from 30_encoding.md R100, R101 (bits 15..8, then OP in 7..0). -/

theorem test_decode_transport :
    decode (.cmd 0b0000000000000001) = .ok .clkCycle ∧ decode (.cmd 0b0000000000000010) = .ok (.writeBit false)
      ∧ decode (.cmd 0b0000000100000010) = .ok (.writeBit true) ∧ decode (.cmd 0b0000000000000011) = .ok .readBit
      ∧ decode (.cmd 0b0000000000000100) = .ok .writeWord ∧ decode (.cmd 0b0000000000000101) = .ok .readWord := by
  decide

theorem test_decode_link :
    decode (.cmd 0b0000000000010000) = .ok .hwResetPulse ∧ decode (.cmd 0b0000000000010001) = .ok .lineReset
      ∧ decode (.cmd 0b0000000000010010) = .ok .jtagToSwd ∧ decode (.cmd 0b0000000000010011) = .ok .linkInit := by
  decide

/-- P[11], A[10:9], B[8] above OP 0x20: the words of V2.3 and R106. -/
theorem test_decode_xfer :
    decode (.cmd 0b0000000100100000) = .ok Instr.dpReadIdcode
      ∧ decode (.cmd 0b0000001100100000) = .ok Instr.dpReadCtrlstat
      ∧ decode (.cmd 0b0000010000100000) = .ok Instr.dpWriteSelect
      ∧ decode (.cmd 0b0000100000100000) = .ok Instr.apWriteCsw
      ∧ decode (.cmd 0b0000101000100000) = .ok Instr.apWriteTar
      ∧ decode (.cmd 0b0000111100100000) = .ok Instr.apReadDrw
      ∧ decode (.cmd 0b0000111000100000) = .ok Instr.apWriteDrw := by
  decide

theorem test_decode_components :
    decode (.cmd 0b0000000000110000) = .ok .powerUp ∧ decode (.cmd 0b0000000000110001) = .ok .apConfig
      ∧ decode (.cmd 0b0000000000110010) = .ok .cpuHalt ∧ decode (.cmd 0b0000000000110011) = .ok .cpuReset
      ∧ decode (.cmd 0b0000000001000000) = .ok .memRead ∧ decode (.cmd 0b0000000001000001) = .ok .memWrite
      ∧ decode (.cmd 0b0000000001010000) = .ok .flashErase ∧ decode (.cmd 0b0000000001010001) = .ok .massErase
      ∧ decode (.cmd 0b0000000001010010) = .ok .pageErase ∧ decode (.cmd 0b0000000001010011) = .ok .flashWrite
      ∧ decode (.cmd 0b0000000001010100) = .ok .flashVerify := by
  decide

theorem test_decode_orchestrator :
    decode (.cmd 0b0000000001100000) = .ok .run ∧ decode (.cmd 0b0000000001100001) = .ok .resetPinTest
      ∧ decode (.cmd 0b0000000001110000) = .ok .tick ∧ decode (.cmd 0b0000000001110001) = .ok .press := by
  decide

/-- The reserved words of V2.3. -/
theorem test_decode_reserved :
    decode (.cmd 0x0101) = .error .unusedField ∧ decode (.cmd 0x1020) = .error .reservedBits
      ∧ decode (.cmd 0x0021) = .error .reservedOp ∧ decode (.cmd 0x0000) = .error .reservedOp
      ∧ decode (.cmd 0x00FF) = .error .reservedOp ∧ decode (.cmd 0x0170) = .error .unusedField := by
  decide

/-- DOC7 headers: bit 0 start, bit 1 rnw, bit 2 a[1], bit 3 a[0], bit 4 parity, bit 5 stop, bit 6 park (R90, V2.1). -/
theorem test_decode_doc7 :
    decode (.header 0b01000001) = .ok .reqDoc7W0 ∧ decode (.header 0b01011001) = .ok .reqDoc7W1
      ∧ decode (.header 0b01010101) = .ok .reqDoc7W2 ∧ decode (.header 0b01001101) = .ok .reqDoc7W3
      ∧ decode (.header 0b01010011) = .ok .reqDoc7R0 ∧ decode (.header 0b01001011) = .ok .reqDoc7R1
      ∧ decode (.header 0b01000111) = .ok .reqDoc7R2 ∧ decode (.header 0b01011111) = .ok .reqDoc7R3 := by
  decide

/-- ADIV5 headers: bit 0 start, bit 1 apndp, bit 2 rnw, bit 3 a[0], bit 4 a[1], bit 5 parity, bit 6 stop, bit 7 park
(R92, V2.2). -/
theorem test_decode_adiv5 :
    decode (.header 0b10000001) = .ok .reqAdiv5DpW0 ∧ decode (.header 0b10101001) = .ok .reqAdiv5DpW1
      ∧ decode (.header 0b10010101) = .ok .reqAdiv5DpR2 ∧ decode (.header 0b10111101) = .ok .reqAdiv5DpR3
      ∧ decode (.header 0b10100011) = .ok .reqAdiv5ApW0 ∧ decode (.header 0b10001011) = .ok .reqAdiv5ApW1
      ∧ decode (.header 0b10110111) = .ok .reqAdiv5ApR2 ∧ decode (.header 0b10011111) = .ok .reqAdiv5ApR3 := by
  decide

theorem test_decode_no_header :
    decode (.header 0x00) = .error .notAHeader ∧ decode (.header 0x61) = .error .notAHeader := by
  decide

/-! ### Well-formedness: a parameter set that breaks each constraint of 60_exceptions.md R345 is refused. -/

theorem test_wellFormed_reference : Params.reference.wellFormed = true := by decide
theorem test_wellFormed_short_line_reset : ({ cfg with nLrHigh := 49 } : Params).wellFormed = false := by decide
theorem test_wellFormed_short_hold : ({ cfg with tRstHoldUs := 999 } : Params).wellFormed = false := by decide
theorem test_wellFormed_short_boot : ({ cfg with tRstBootUs := 99 } : Params).wellFormed = false := by decide
theorem test_wellFormed_no_page : ({ cfg with pageSize := 0 } : Params).wellFormed = false := by decide
theorem test_wellFormed_same_acks :
    ({ cfg with ackWait := cfg.ackOk } : Params).wellFormed = false
      ∧ ({ cfg with ackFault := cfg.ackOk } : Params).wellFormed = false
      ∧ ({ cfg with ackFault := cfg.ackWait } : Params).wellFormed = false := by decide
theorem test_wellFormed_phases :
    ({ cfg with pEraseEnd := 81 } : Params).wellFormed = false
      ∧ ({ cfg with pWriteEnd := 101 } : Params).wellFormed = false
      ∧ ({ cfg with pVerifyEnd := 101 } : Params).wellFormed = false := by decide
theorem test_wellFormed_instruction : (Instr.xfer .ap true 3).wellFormed = true := by decide

/-! ### Transport (V2.3, V2.4). -/

theorem test_clkCycle :
    holds (exec .clkCycle (scripted [])) (fun t =>
      t.ev == [.setClk false, .delay 1, .setClk true, .delay 1] && t.timeUs == 2 && t.stepCount == 4) = true := by
  decide +kernel

theorem test_writeBit :
    holds (exec (.writeBit true) (scripted [])) (fun t =>
      t.ev == [.setDir .output, .setDio true, .setClk false, .delay 1, .setClk true, .delay 1]
        && t.dioOut && t.dioDir == .output) = true := by
  decide +kernel

theorem test_readBit :
    holds (exec .readBit (scripted [true])) (fun t =>
      t.ev == [.setDir .input, .setClk false, .delay 1, .setClk true, .sampleDio true, .delay 1]
        && t.resData == 0x00000001) = true := by
  decide +kernel

theorem test_writeWord :
    holds (exec .writeWord { scripted [] with argData := 0x00000001 }) (fun t =>
      (t.ev.filterMap fun e => match e with | .setDio b => some b | _ => none) == true :: List.replicate 31 false
        && cyclesIn t.ev == 32 && t.ev.length == 192) = true := by
  decide +kernel

/-- The samples of V2.4, LSB first, written out as 0 and 1. -/
theorem test_readWord :
    holds (exec .readWord (scripted
      ([1, 1, 1, 0, 1, 1, 1, 0, 0, 0, 1, 0, 1, 0, 0, 0, 0, 0, 0, 0, 0, 1, 0, 1, 1, 1, 0, 1, 0, 1, 0, 0].map (· == 1))))
      (fun t => t.resData == 0x2BA01477 && cyclesIn t.ev == 32 && t.ev.length == 192) = true := by
  decide +kernel

/-- V2.15: the first events of a sample after reset release the line. -/
theorem test_readBit_releases : samplesOnlyInput .output (readBitEv 1 true) = true := by decide

/-! ### Headers (V2.1, V2.2). -/

/-- The levels an instruction drives, in order. -/
def driven (o : Host.Outcome State Fault Refusal) : List Bool :=
  match o with
  | .next t => t.ev.filterMap fun e => match e with | .setDio b => some b | _ => none
  | .fault _ => []
  | .refused _ => []

theorem test_reqDoc7_writes :
    driven (exec .reqDoc7W0 (scripted [])) = [1, 0, 0, 0, 0, 0, 1].map (· == 1)
      ∧ driven (exec .reqDoc7W1 (scripted [])) = [1, 0, 0, 1, 1, 0, 1].map (· == 1)
      ∧ driven (exec .reqDoc7W2 (scripted [])) = [1, 0, 1, 0, 1, 0, 1].map (· == 1)
      ∧ driven (exec .reqDoc7W3 (scripted [])) = [1, 0, 1, 1, 0, 0, 1].map (· == 1) := by
  decide +kernel

theorem test_reqDoc7_reads :
    driven (exec .reqDoc7R0 (scripted [])) = [1, 1, 0, 0, 1, 0, 1].map (· == 1)
      ∧ driven (exec .reqDoc7R1 (scripted [])) = [1, 1, 0, 1, 0, 0, 1].map (· == 1)
      ∧ driven (exec .reqDoc7R2 (scripted [])) = [1, 1, 1, 0, 0, 0, 1].map (· == 1)
      ∧ driven (exec .reqDoc7R3 (scripted [])) = [1, 1, 1, 1, 1, 0, 1].map (· == 1) := by
  decide +kernel

/-- The block with `REQ_FORMAT = ADIV5`. -/
def adiv5 : State := { scripted [] with cfg := { cfg with reqFormat := .adiv5 } }

/-- The byte whose bit i is the i-th level driven. -/
def headerByte (i : Instr) : Nat := natOfBits (driven (exec i adiv5))

theorem test_reqAdiv5_dp :
    [Instr.reqAdiv5DpW0, .reqAdiv5DpW1, .reqAdiv5DpW2, .reqAdiv5DpW3, .reqAdiv5DpR0, .reqAdiv5DpR1, .reqAdiv5DpR2,
      .reqAdiv5DpR3].map headerByte = [0x81, 0xA9, 0xB1, 0x99, 0xA5, 0x8D, 0x95, 0xBD] := by
  decide +kernel

theorem test_reqAdiv5_ap :
    [Instr.reqAdiv5ApW0, .reqAdiv5ApW1, .reqAdiv5ApW2, .reqAdiv5ApW3, .reqAdiv5ApR0, .reqAdiv5ApR1, .reqAdiv5ApR2,
      .reqAdiv5ApR3].map headerByte = [0xA3, 0x8B, 0x93, 0xBB, 0x87, 0xAF, 0xB7, 0x9F] := by
  decide +kernel

theorem test_header_of_the_other_format :
    holds (exec .reqAdiv5DpR0 (scripted [])) (fun t => t.resKind == .refused && t.ev == []) = true := by
  decide +kernel

/-! ### Transactions (V2.5, P1). -/

theorem test_xfer_read :
    holds (exec Instr.dpReadIdcode (scripted (okRead cfg 0x2BA01477 false))) (fun t =>
      t.resKind == .ok && t.resAck == 0b001 && t.resData == 0x2BA01477 && cyclesIn t.ev == 54 && t.ev.length == 306)
      = true := by
  decide +kernel

/-- An ACK of three ones: a protocol error, 20 cycles, 104 events. -/
theorem test_xfer_undriven :
    holds (exec Instr.apWriteDrw (scripted [true, true, true])) (fun t =>
      t.resKind == .nack && t.resAck == 0b111 && cyclesIn t.ev == 20 && t.ev.length == 104) = true := by
  decide +kernel

/-! ### Link (V2.4, V2.6, S2). -/

theorem test_hwResetPulse :
    holds (exec .hwResetPulse (scripted [])) (fun t =>
      t.ev == [.setRst false, .delay 1000, .setRst true, .delay 100] && t.timeUs == 1100) = true := by
  decide +kernel

theorem test_lineReset :
    holds (exec .lineReset (scripted [])) (fun t =>
      cyclesIn t.ev == 58 && t.ev.length == 236 && t.dioDir == .output && !t.dioOut && t.swclk) = true := by
  decide +kernel

theorem test_jtagToSwd :
    driven (exec .jtagToSwd (scripted [])) = [0, 1, 1, 1, 1, 0, 0, 1, 1, 1, 1, 0, 0, 1, 1, 1].map (· == 1) := by
  decide +kernel

theorem test_linkInit :
    holds (exec .linkInit (attached 0 0 0 [])) (fun t =>
      t.resKind == .ok && t.resData == 0x2BA01477 && (t.session.bind (·.core)) == some .m34
        && cyclesIn t.ev == 186 && t.ev.length == 878 && t.timeUs == 1472) = true := by
  decide +kernel

theorem test_linkInit_fault :
    holds (exec .linkInit (scripted (bitsOf cfg.ackFault))) (fun t =>
      t.resKind == .error .linkInitFailure && cyclesIn t.ev == 152 && t.ev.length == 676 && t.timeUs == 1404)
      = true := by
  decide +kernel

/-! ### Power, access port, CPU (V2.7). -/

theorem test_powerUp :
    holds (exec .powerUp (attached 0 0 0 [])) (fun t => t.resKind == .ok && cyclesIn t.ev == 108) = true := by
  decide +kernel

theorem test_powerUp_retries :
    holds (exec .powerUp (scripted (okAcks cfg 1 ++ bitsOf cfg.ackWait ++ okRead cfg 0x20000000 true
        ++ okRead cfg 0xF0000000 false)))
      (fun t => t.resKind == .ok && cyclesIn t.ev == 182 && t.timeUs == 2 * 182 + 2000) = true := by
  decide +kernel

theorem test_apConfig :
    holds (exec .apConfig (attached 0 0 0 [])) (fun t =>
      t.resKind == .ok && t.resData == 0x24770011 && cyclesIn t.ev == 216
        && (t.session.bind (·.mscBase)) == some 0x400E0000 && (t.session.bind (·.pageSize)) == some 2048) = true := by
  decide +kernel

theorem test_apConfig_locked :
    holds (exec .apConfig { attached 0 0 0 [] with target := some { target with idr := 0x16E60001 } }) (fun t =>
      t.resKind == .error .debugLocked && t.resData == 0x16E60001 && cyclesIn t.ev == 108) = true := by
  decide +kernel

theorem test_cpuHalt :
    holds (exec .cpuHalt (attached 0 0 0 [])) (fun t =>
      t.resKind == .ok && cyclesIn t.ev == 324 && loads t 0xE000EDF0 == some 0xA05F0003
        && loads t 0xE000EDFC == some 0x00000001 && loads t 0xE000ED0C == some 0x05FA0004) = true := by
  decide +kernel

theorem test_cpuHalt_fault :
    holds (exec .cpuHalt (scripted (okAcks cfg 3 ++ bitsOf cfg.ackFault))) (fun t =>
      t.resKind == .error .haltFailure && cyclesIn t.ev == 182) = true := by
  decide +kernel

theorem test_cpuReset :
    holds (exec .cpuReset (attached 0 0 0 [])) (fun t =>
      t.resKind == .ok && cyclesIn t.ev == 108 && loads t 0xE000ED0C == some 0x05FA0004) = true := by
  decide +kernel

/-! ### Memory access (V2.8). -/

theorem test_memWrite :
    holds (exec .memWrite (attached 0x20000000 0xDEADBEEF 0 [])) (fun t =>
      t.resKind == .ok && cyclesIn t.ev == 108 && loads t 0x20000000 == some 0xDEADBEEF) = true := by
  decide +kernel

theorem test_memRead_erased :
    holds (exec .memRead (attached 0 0 0 [])) (fun t => t.resKind == .ok && t.resData == 0xFFFFFFFF) = true := by
  decide +kernel

theorem test_memRead_fault :
    holds (exec .memRead (scripted (okAcks cfg 1 ++ bitsOf cfg.ackFault))) (fun t =>
      t.resKind == .nack && t.resData == 0xFFFFFFFF && cyclesIn t.ev == 74) = true := by
  decide +kernel

/-! ### Flash (V2.9 to V2.11). -/

theorem test_wordOf :
    (List.map (fun p : Nat × Nat => wordOf [0x11, 0x22, 0x33, 0x44, 0x55, 0x66, 0x77, 0x88] p.1 p.2)
      [(1, 0), (4, 0), (5, 1), (7, 1), (8, 1)])
      = [0xFFFFFF11, 0x44332211, 0xFFFFFF55, 0xFF776655, 0x88776655] := by
  decide

theorem test_flashErase_pages :
    holds (exec .flashErase (attached 0 0 2049 [])) (fun t =>
      t.resKind == .ok && cyclesIn t.ev == 864 && t.note == [.progress 15, .progress 30]) = true := by
  decide +kernel

theorem test_flashErase_mass :
    holds (exec .flashErase (attached 0 0 65537 [])) (fun t =>
      t.resKind == .ok && cyclesIn t.ev == 216 && t.note == [.progress 30]) = true
      ∧ wantsMassErase cfg 0 65536 = false ∧ wantsMassErase cfg 0x800 70000 = false := by
  decide +kernel

/-- R241 and R242 on the reference target: the erased words read as `0xFFFFFFFF`, others stay. -/
def dirty : State :=
  { attached 0x800 0 0 [] with target := some { target with mem := [(0x4, 1), (0x800, 2), (0xFFC, 3), (0x1000, 4)] } }

theorem test_pageErase :
    holds (exec .pageErase dirty) (fun t =>
      t.resKind == .ok && cyclesIn t.ev == 432 && loads t 0x800 == some 0xFFFFFFFF && loads t 0xFFC == some 0xFFFFFFFF
        && loads t 0x4 == some 1 && loads t 0x1000 == some 4) = true := by
  decide +kernel

theorem test_massErase :
    holds (exec .massErase dirty) (fun t =>
      t.resKind == .ok && cyclesIn t.ev == 216 && loads t 0x4 == some 0xFFFFFFFF && loads t 0x1000 == some 0xFFFFFFFF)
      = true := by
  decide +kernel

theorem test_flashWrite :
    holds (exec .flashWrite (attached 0 0 5 image5)) (fun t =>
      t.resKind == .ok && cyclesIn t.ev == 972 && t.note == [.progress 30, .progress 80]
        && loads t 0 == some 0x04030201 && loads t 4 == some 0xFFFFFF05) = true := by
  decide +kernel

/-- The second word's WDATA write answered FAULT: `REG.index = 1`, 16 transfers. -/
theorem test_flashWrite_fault :
    holds (exec .flashWrite (operands 0 5 image5 (okAcks cfg 15 ++ bitsOf cfg.ackFault))) (fun t =>
      t.resKind == .error .writeFailure && t.index == 1 && t.progress == 30 && cyclesIn t.ev == 15 * 54 + 20)
      = true := by
  decide +kernel

/-- The progress of R251 by hand: after each word with a stride of 1, and a value that does not change is not notified
(R240). -/
theorem test_flashWrite_progress :
    holds (exec .flashWrite { operands 0 5 image5 (okAcks cfg 18) with
        cfg := { cfg with progressStride := 1 }, progress := 30 })
      (fun t => t.note == [.progress 55, .progress 80]) = true := by
  decide +kernel

/-- One mismatch in two words fails the verify (90_conflicts.md C2). -/
theorem test_flashVerify_mismatch :
    holds (exec .flashVerify (operands 0 5 image5 (okMemReads cfg [0x04030201, 0]))) (fun t =>
      t.resKind == .error .verifyFailure && t.resData == 1 && t.errCount == 1 && cyclesIn t.ev == 2 * 108) = true := by
  decide +kernel

theorem test_flashVerify_sentinel :
    holds (exec .flashVerify (operands 0 4 [0xFF, 0xFF, 0xFF, 0xFF] (okAcks cfg 1 ++ bitsOf cfg.ackFault))) (fun t =>
      t.resKind == .ok && t.resData == 0) = true := by
  decide +kernel

/-- 60_exceptions.md R345: an image byte that the host did not supply is recorded, and the command goes on. -/
theorem test_flashWrite_short_image :
    holds (exec .flashWrite (operands 0 5 [1, 2, 3, 4] (okAcks cfg 18))) (fun t =>
      t.faults == [.imageShort] && t.resKind == .ok && t.progress == 80) = true := by
  decide +kernel

/-- 60_exceptions.md R345: the observation of a session field that no rule has written is recorded, once. -/
theorem test_readSession :
    let s := { scripted [] with session := some { Session.fresh with idcode := some 7 } }
    (readSession Session.idcode s).1 = some 7 ∧ (readSession Session.idcode s).2.faults = []
      ∧ (readSession Session.apIdr (readSession Session.apIdr s).2).2.faults = [.sessionUnwritten] := by
  decide

/-- 92_eei_decisions.md D33: the codes of the kinds. -/
theorem test_error_codes :
    errorCode .linkInitFailure = 1 ∧ errorCode .debugLocked = 4 ∧ errorCode .verifyFailure = 8
      ∧ sourceKind .debugLocked = .apConfigFailure
      ∧ lastErrorCode { scripted [] with lastError := some .eraseFailure } = some 6 := by
  decide

/-- 60_exceptions.md R330: the error count of a failed verify is left for the reader, past the end of the command. -/
theorem test_step_leaves_the_error_count :
    holds (step { operands 0 5 image5 (okMemReads cfg [0x04030201, 0]) with host := [{ frame := .cmd 0x0054 }] })
      (fun t => t.resKind == .error .verifyFailure && t.errCount == 1) = true := by
  decide +kernel

/-! ### Runs, LED, trigger (V2.12 to V2.15, P3, P4). -/

/-- `RUN 0, 0`: 17 transfers (V2.12). -/
theorem test_run :
    holds (exec .run (attached 0 0 0 [])) (fun t =>
      t.resKind == .ok && t.status == .success && t.progress == 100 && !t.runActive && t.session == none
        && t.note == [.status .initializing, .status .programming, .progress 30, .progress 80, .status .verifying,
          .progress 100, .status .success]
        && cyclesIn t.ev == 1050) = true := by
  decide +kernel

theorem test_run_link_fault :
    holds (exec .run (operands 0 5 image5 (bitsOf cfg.ackFault))) (fun t =>
      t.resKind == .error .linkInitFailure && t.lastError == some .linkInitFailure && t.progress == 0
        && t.note == [.status .initializing, .status .error] && t.ev.length == 676) = true := by
  decide +kernel

theorem test_resetPinTest :
    holds (exec .resetPinTest (scripted [])) (fun t =>
      t.ev.length == 20 && t.timeUs == 100000 && t.nreset
        && t.ev.take 4 == [.setRst false, .delay 10000, .setRst true, .delay 10000]) = true := by
  decide +kernel

/-- A tick with the LED's state before it (V2.13). -/
def tickAt (status : Status) (last now : Nat) (led : Bool) : State :=
  { scripted [] with status := status, ledLastMs := last, led := led, argData := BitVec.ofNat 32 now }

theorem test_tick_led :
    holds (exec .tick (tickAt .programming 1000 1199 false)) (fun t => !t.led && t.ledLastMs == 1000) = true
      ∧ holds (exec .tick (tickAt .programming 1000 1200 false)) (fun t => t.led && t.ledLastMs == 1200) = true
      ∧ holds (exec .tick (tickAt .error 0 99 false)) (fun t => !t.led) = true
      ∧ holds (exec .tick (tickAt .error 100 200 true)) (fun t => !t.led) = true
      ∧ holds (exec .tick (tickAt .success 7 7 false)) (fun t => t.led) = true
      ∧ holds (exec .tick (tickAt .idle 0 0 true)) (fun t => !t.led && t.ev == []) = true := by
  decide +kernel

/-- `PRESS 1000` pending: `TICK 1499` starts nothing, `TICK 1500` starts the run (V2.14). -/
theorem test_tick_window :
    holds (exec .tick { tickAt .idle 0 1499 false with pressPending := true, pressMs := 1000 })
      (fun t => t.pressPending && t.note == []) = true
      ∧ holds (exec .tick { tickAt .idle 0 1500 false with
          pressPending := true, pressMs := 1000, answers := bitsOf cfg.ackFault })
        (fun t => !t.pressPending && t.status == .error && !t.led) = true := by
  decide +kernel

theorem test_press_double :
    holds (exec .press { scripted [] with pressPending := true, pressMs := 0, argData := 499 })
      (fun t => !t.pressPending && t.ev.length == 20 && t.note == []) = true := by
  decide +kernel

theorem test_press_late :
    holds (exec .press { scripted (bitsOf cfg.ackFault) with pressPending := true, pressMs := 0, argData := 500 })
      (fun t => t.pressPending && t.pressMs == 500 && t.note == [.status .initializing, .status .error]) = true := by
  decide +kernel

/-! ### The step. -/

/-- `step` fetches the host's write, runs it and ends the command (P1 step 4). -/
theorem test_step_runs :
    holds (step { attached 0 0 0 [] with host := [{ frame := .cmd 0x0120 }] }) (fun t =>
      t.resData == 0x2BA01477 && t.cmd == none && t.stepCount == 306 && t.host == [] && t.cmdWord == 0x0120)
      = true := by
  decide +kernel

/-- `REFUSED`, no event (V2.3). -/
theorem test_step_refuses :
    holds (step { scripted [] with host := [{ frame := .cmd 0x1020 }] }) (fun t =>
      t.resKind == .refused && t.ev == []) = true := by
  decide +kernel

/-- A table word placed where the step fetches it runs at once, in the format it belongs to. -/
theorem test_step_table_words :
    holds (step ((scripted []).withFetchWord 8 0x87)) (fun t => t.reqParity == false && t.ev.length == 48) = true
      ∧ holds (step ((scripted []).withFetchWord 7 0x53)) (fun t => t.reqParity && t.ev.length == 42) = true
      ∧ holds (step ((scripted []).withFetchWord 16 0x0001)) (fun t => t.ev.length == 4) = true := by
  decide +kernel

/-! ### Witnesses: states and operands that meet the hypotheses of each obligation, at the ends of their ranges. -/

theorem acks_differ : cfg.ackOk ≠ cfg.ackWait := by decide

theorem fault_fails : failingAck cfg cfg.ackFault = true := by decide

/-- A host write of a command word. -/
def hostCmd (w : BitVec 16) : HostWrite := { frame := .cmd w }

theorem witness_DecodeOfEncodeIsTheInstruction : (Instr.xfer .ap true 3).wellFormed = true := rfl

theorem witness_EncodeOfDecodeIsTheFrame : decode (.header 0x9F) = .ok .reqAdiv5ApR3 ∧ decode (.cmd 0x0F20) = .ok (.xfer .ap true 3) := by
  decide

theorem witness_WordsThatAreNoCommandAreRefused :
    ∃ (s : State) (h : HostWrite) (rest : List HostWrite) (e : DecodeError),
      s.cfg.valid = true ∧ s.host = h :: rest ∧ decode h.frame = .error e :=
  ⟨{ scripted [] with host := [hostCmd 0x1020] }, hostCmd 0x1020, [], .reservedBits, by decide⟩

theorem witness_HeaderRowsAreTheHeadersSent :
    headerOf .reqDoc7R3 = some (.doc7, .dp, true, 3) ∧ headerOf .reqAdiv5ApW0 = some (.adiv5, .ap, false, 0) :=
  ⟨rfl, rfl⟩

theorem witness_StepRunsTheDecodedInstruction :
    ∃ (s : State) (h : HostWrite) (rest : List HostWrite) (i : Instr),
      s.cfg.valid = true ∧ s.host = h :: rest ∧ decode h.frame = .ok i :=
  ⟨{ scripted [] with host := [hostCmd 0x0120, hostCmd 0x0001] }, hostCmd 0x0120, [hostCmd 0x0001], .xfer .dp true 0,
    by decide⟩

theorem witness_StepWaitsOrStops :
    (∃ s : State, s.cfg.valid = true ∧ s.host = []) ∧ ∃ s : State, s.cfg.valid = false :=
  ⟨⟨scripted [], by decide⟩, ⟨{ scripted [] with cfg := { cfg with pageSize := 0 } }, by decide⟩⟩

/-- The reset state with one command pending. -/
def pending (w : BitVec 16) : State := { State.reset with host := [hostCmd w] }

theorem witness_StepCountsTheEventsOfTheCommand :
    ∃ (s t : State) (h : HostWrite) (rest : List HostWrite) (i : Instr),
      s.host = h :: rest ∧ decode h.frame = .ok i ∧ step s = .next t :=
  ⟨pending 0x0001, _, hostCmd 0x0001, [], .clkCycle, rfl, by decide, rfl⟩

theorem witness_EveryStepKeepsTheInvariants :
    ∃ s t : State, HistoryInv s ∧ IdleInv s ∧ SessionInv s ∧ TargetMemoryInv s ∧ step s = .next t := by
  refine ⟨pending 0x0102, _, ⟨rfl, rfl, rfl, rfl, rfl, rfl⟩, ⟨by decide, rfl, rfl, rfl, rfl, ?_, ?_, .inl rfl⟩, ?_, ?_, rfl⟩
  · exact Nat.zero_le _
  · exact Nat.zero_le _
  · intro x h; cases h
  · intro r h; cases h

theorem witness_EveryInstructionCompletes : ∃ s : State, s.cfg.valid = true ∧ s.host = [hostCmd 0x0053] :=
  ⟨pending 0x0053, by decide, rfl⟩

theorem witness_EveryInstructionKeepsTheHostSideAndExtendsTheHistory :
    (∃ s t : State, s.argLen.toNat ≤ s.image.length ∧ s.argLen ≠ 0 ∧ exec .flashWrite s = .next t)
      ∧ ∃ s t : State, s.image.length < s.argLen.toNat ∧ exec .flashWrite s = .next t :=
  ⟨⟨operands 0 5 image5 [], _, by decide, by decide, rfl⟩, ⟨operands 0 5 [1, 2, 3, 4] [], _, by decide, rfl⟩⟩

theorem witness_StandaloneCommandsLeaveTheRunStateAlone :
    ∃ (i : Instr) (s t : State), i ≠ .run ∧ i ≠ .tick ∧ i ≠ .press ∧ exec i s = .next t :=
  ⟨.flashWrite, State.reset, _, by decide, by decide, by decide, rfl⟩

theorem witness_ComponentCommandsChangeOnlyWhatTheyName :
    ∃ s : State, ∀ i ∈ [Instr.xfer .ap false 1, .linkInit, .powerUp, .apConfig, .cpuHalt, .cpuReset, .memRead, .memWrite,
      .massErase, .pageErase, .flashErase, .flashWrite, .flashVerify], ∃ t, exec i s = .next t := by
  refine ⟨State.reset, fun i hi => ?_⟩
  simp only [List.mem_cons, List.not_mem_nil, or_false] at hi
  rcases hi with rfl | rfl | rfl | rfl | rfl | rfl | rfl | rfl | rfl | rfl | rfl | rfl | rfl <;> exact ⟨_, rfl⟩

theorem witness_ReadBitSamplesOneBit :
    ∃ (s : State) (v : Bool), v = s.answers.headD (Config.oracle
      ([.setClk true, .delay s.cfg.tHalfUs, .setClk false, .setDir .input] ++ s.evRev)) := ⟨scripted [true], true, rfl⟩

theorem witness_ReadWordAssemblesItsSamples :
    ∃ (s : State) (w : Word), s.answers = (List.range 32).map fun i => w.getLsbD i :=
  ⟨scripted ((List.range 32).map fun i => (0x2BA01477 : Word).getLsbD i), 0x2BA01477, rfl⟩

theorem witness_HeadersSendTheirBits :
    ∃ (i : Instr) (f : ReqFormat) (port : Port) (rnw : Bool) (a : BitVec 2) (s u : State),
      headerOf i = some (f, port, rnw, a) ∧ s.cfg.reqFormat = f ∧ u.cfg.reqFormat ≠ f :=
  ⟨.reqDoc7R0, .doc7, .dp, true, 0, scripted [], adiv5, by decide⟩

theorem witness_XferReadAcknowledged :
    ∃ (s : State) (w : Word) (p : Bool) (rest : List Bool),
      s.target = none ∧ s.cfg.ackOk ≠ s.cfg.ackWait ∧ s.answers = okRead s.cfg w p ++ rest :=
  ⟨scripted (okRead cfg 0x2BA01477 true ++ [false]), 0x2BA01477, true, [false], by decide⟩

theorem witness_XferWriteAcknowledged :
    ∃ (s : State) (rest : List Bool),
      s.target = none ∧ s.cfg.ackOk ≠ s.cfg.ackWait ∧ s.answers = okAcks s.cfg 1 ++ rest :=
  ⟨scripted (okAcks cfg 1 ++ [true]), [true], by decide⟩

theorem witness_XferNotAcknowledged :
    ∃ (s : State) (k : BitVec 3) (rest : List Bool),
      s.target = none ∧ failingAck s.cfg k = true ∧ s.answers = bitsOf k ++ rest :=
  ⟨scripted (bitsOf cfg.ackWait ++ [true]), cfg.ackWait, [true], by decide⟩

/-- Parameters with two WAIT retries (V2.5). -/
def retrying : Params := { cfg with waitRetries := 2 }

theorem witness_XferRetriesWhileWaiting :
    (∃ (s : State) (m : Nat) (rest : List Bool),
      s.target = none ∧ s.cfg.ackOk ≠ s.cfg.ackWait ∧ m ≤ s.cfg.waitRetries ∧ m = 2
        ∧ s.answers = (List.replicate m (bitsOf s.cfg.ackWait)).flatten ++ okAcks s.cfg 1 ++ rest)
      ∧ (∃ (s : State) (m : Nat) (w : Word) (rest : List Bool),
        s.target = none ∧ s.cfg.ackOk ≠ s.cfg.ackWait ∧ m ≤ s.cfg.waitRetries ∧ m = 2
          ∧ s.answers = (List.replicate m (bitsOf s.cfg.ackWait)).flatten ++ okRead s.cfg w (evenParity w) ++ rest)
      ∧ ∃ (s : State) (rest : List Bool), s.target = none ∧ s.cfg.ackOk ≠ s.cfg.ackWait
          ∧ s.answers = (List.replicate (s.cfg.waitRetries + 1) (bitsOf s.cfg.ackWait)).flatten ++ rest :=
  ⟨⟨{ scripted ((List.replicate 2 (bitsOf cfg.ackWait)).flatten ++ okAcks cfg 1) with cfg := retrying }, 2, [], by decide⟩,
    ⟨{ scripted ((List.replicate 2 (bitsOf cfg.ackWait)).flatten ++ okRead cfg 7 (evenParity 7)) with cfg := retrying },
      2, 7, [], rfl, by decide, by decide, rfl, (List.append_nil _).symm⟩,
    ⟨{ scripted (List.replicate 3 (bitsOf cfg.ackWait)).flatten with cfg := retrying }, [], by decide⟩⟩

/-- Both header formats, and no idle cycle. -/
theorem witness_AttemptsHaveTheCountsListed :
    (∃ (s : State) (w : Word) (p : Bool) (rest : List Bool), s.target = none ∧ s.cfg.ackOk ≠ s.cfg.ackWait
      ∧ s.cfg.reqFormat = .doc7 ∧ s.answers = okRead s.cfg w p ++ rest)
      ∧ (∃ (s : State) (rest : List Bool), s.target = none ∧ s.cfg.ackOk ≠ s.cfg.ackWait
        ∧ s.cfg.reqFormat = .adiv5 ∧ s.answers = okAcks s.cfg 1 ++ rest)
      ∧ ∃ (s : State) (k : BitVec 3) (rest : List Bool), s.target = none ∧ s.cfg.ackOk ≠ s.cfg.ackWait
        ∧ s.cfg.nIdle = 0 ∧ failingAck s.cfg k = true ∧ s.answers = bitsOf k ++ rest :=
  ⟨⟨scripted (okRead cfg 0x2BA01477 true), 0x2BA01477, true, [], by decide⟩,
    ⟨{ adiv5 with answers := okAcks cfg 1 }, [], by decide⟩,
    ⟨{ scripted (bitsOf cfg.ackFault) with cfg := { cfg with nIdle := 0 } }, cfg.ackFault, [], by decide⟩⟩

/-- Parameters that check the parity of a read. -/
def checking : Params := { cfg with rdataParity := .check }

theorem witness_valid : cfg.valid = true ∧ Params.reference.valid = true ∧ cfg.tRstHoldUs = 1000 ∧ cfg.tRstBootUs = 100 ∧ cfg.nLrHigh = 50 := by
  decide

theorem witness_LinkInitTakesTheIdcodeOrFails :
    (∃ (s : State) (w : Word) (p : Bool) (rest : List Bool), s.target = none ∧ s.cfg.ackOk ≠ s.cfg.ackWait
      ∧ s.answers = okRead s.cfg w p ++ rest ∧ parityAccepted s.cfg w p = true)
      ∧ (∃ (s : State) (k : BitVec 3) (rest : List Bool), s.target = none ∧ s.cfg.ackOk ≠ s.cfg.ackWait
        ∧ failingAck s.cfg k = true ∧ s.answers = bitsOf k ++ rest)
      ∧ ∃ (s : State) (w : Word) (p : Bool) (rest : List Bool), s.target = none ∧ s.cfg.ackOk ≠ s.cfg.ackWait
        ∧ s.answers = okRead s.cfg w p ++ rest ∧ parityAccepted s.cfg w p = false :=
  ⟨⟨scripted (okRead cfg 0x12345678 true), 0x12345678, true, [], by decide⟩,
    ⟨scripted (bitsOf 0b111#3), 0b111, [], by decide⟩,
    ⟨{ scripted (okRead cfg 1 false) with cfg := checking }, 1, false, [], by decide⟩⟩

/-- Parameters with three polls. -/
def polling : Params := { cfg with nPoll := 3 }

/-- A WAIT, then a word with one acknowledge bit (V2.7). -/
def failedPolls : List (BitVec 3 × Word) := [(0b010, 0), (0b001, 0x20000000)]

theorem failedPolls_fail : ∀ q ∈ failedPolls ++ [(0b100, 0)], pollFails polling q = true := by
  intro q hq
  simp only [failedPolls, List.cons_append, List.nil_append, List.mem_cons, List.not_mem_nil, or_false] at hq
  rcases hq with rfl | rfl | rfl <;> decide

theorem witness_PowerUpPollsUntilBothAcknowledges :
    (∃ (s : State) (rest : List Bool) (qs : List (BitVec 3 × Word)) (w : Word),
      s.target = none ∧ s.cfg.ackOk ≠ s.cfg.ackWait ∧ qs.length + 1 = s.cfg.nPoll ∧ qs.length < s.cfg.nPoll
        ∧ (∀ q ∈ qs, pollFails s.cfg q = true) ∧ poweredUp s.cfg w = true
        ∧ s.answers = okAcks s.cfg 1 ++ qs.flatMap (pollAnswer s.cfg) ++ okRead s.cfg w (evenParity w) ++ rest)
      ∧ (∃ (s : State) (rest : List Bool) (qs : List (BitVec 3 × Word)) (q : BitVec 3 × Word),
        s.target = none ∧ s.cfg.ackOk ≠ s.cfg.ackWait ∧ qs.length + 1 = s.cfg.nPoll
          ∧ (∀ x ∈ qs ++ [q], pollFails s.cfg x = true)
          ∧ s.answers = okAcks s.cfg 1 ++ (qs ++ [q]).flatMap (pollAnswer s.cfg) ++ rest)
      ∧ ∃ (s : State) (k : BitVec 3) (rest : List Bool), s.target = none ∧ s.cfg.ackOk ≠ s.cfg.ackWait
        ∧ failingAck s.cfg k = true ∧ s.answers = bitsOf k ++ rest :=
  ⟨⟨{ scripted (okAcks polling 1 ++ failedPolls.flatMap (pollAnswer polling)
        ++ okRead polling 0xF0000000 (evenParity 0xF0000000))
      with cfg := polling }, [], failedPolls, 0xF0000000, rfl, by decide, by decide, by decide,
      fun q hq => failedPolls_fail q (List.mem_append_left _ hq), by decide, (List.append_nil _).symm⟩,
    ⟨{ scripted (okAcks polling 1 ++ (failedPolls ++ [(0b100, 0)]).flatMap (pollAnswer polling)) with cfg := polling }, [],
      failedPolls, (0b100, 0), rfl, by decide, by decide, failedPolls_fail, (List.append_nil _).symm⟩,
    ⟨scripted (bitsOf cfg.ackFault), cfg.ackFault, [], by decide⟩⟩

theorem witness_ApConfigSetsUpThePortOrFindsItLocked :
    (∃ (s : State) (p : Bool) (rest : List Bool) (w : Word), s.target = none ∧ s.cfg.ackOk ≠ s.cfg.ackWait
      ∧ w ≠ s.cfg.idrLocked ∧ parityAccepted s.cfg w p = true
      ∧ s.answers = okAcks s.cfg 1 ++ okRead s.cfg w p ++ okAcks s.cfg 2 ++ rest)
      ∧ ∃ (s : State) (p : Bool) (rest : List Bool), s.target = none ∧ s.cfg.ackOk ≠ s.cfg.ackWait
        ∧ parityAccepted s.cfg s.cfg.idrLocked p = true
        ∧ s.answers = okAcks s.cfg 1 ++ okRead s.cfg s.cfg.idrLocked p ++ rest :=
  ⟨⟨scripted (okAcks cfg 1 ++ okRead cfg 0x11111111 false ++ okAcks cfg 2), false, [], 0x11111111, by decide⟩,
    ⟨scripted (okAcks cfg 1 ++ okRead cfg cfg.idrLocked false), false, [], by decide⟩⟩

/-- The first SELECT, the IDR read, the second SELECT and the CSW write each fail; and the IDR comes with a wrong parity
bit. -/
theorem witness_ApConfigFails :
    (∃ (s : State) (k : BitVec 3) (rest : List Bool), s.target = none ∧ s.cfg.ackOk ≠ s.cfg.ackWait
      ∧ failingAck s.cfg k = true ∧ s.answers = bitsOf k ++ rest)
      ∧ (∃ (s : State) (k : BitVec 3) (rest : List Bool), s.target = none ∧ s.cfg.ackOk ≠ s.cfg.ackWait
        ∧ failingAck s.cfg k = true ∧ s.answers = okAcks s.cfg 1 ++ bitsOf k ++ rest)
      ∧ (∀ n ∈ [0, 1], ∃ (s : State) (p : Bool) (w : Word) (k : BitVec 3) (rest : List Bool), s.target = none
        ∧ s.cfg.ackOk ≠ s.cfg.ackWait ∧ failingAck s.cfg k = true ∧ w ≠ s.cfg.idrLocked
        ∧ parityAccepted s.cfg w p = true
        ∧ s.answers = okAcks s.cfg 1 ++ okRead s.cfg w p ++ okAcks s.cfg n ++ bitsOf k ++ rest)
      ∧ ∃ (s : State) (p : Bool) (w : Word) (rest : List Bool), s.target = none ∧ s.cfg.ackOk ≠ s.cfg.ackWait
        ∧ parityAccepted s.cfg w p = false ∧ s.answers = okAcks s.cfg 1 ++ okRead s.cfg w p ++ rest := by
  refine ⟨⟨scripted (bitsOf cfg.ackFault), cfg.ackFault, [], by decide⟩,
    ⟨scripted (okAcks cfg 1 ++ bitsOf cfg.ackWait), cfg.ackWait, [], by decide⟩, fun n _ => ?_,
    ⟨{ scripted (okAcks cfg 1 ++ okRead cfg 1 false) with cfg := checking }, false, 1, [], by decide⟩⟩
  exact ⟨scripted (okAcks cfg 1 ++ okRead cfg 0x11111111 false ++ okAcks cfg n ++ bitsOf cfg.ackFault), false,
    0x11111111, cfg.ackFault, [], rfl, acks_differ, fault_fails, (by decide : (0x11111111 : Word) ≠ cfg.idrLocked),
    (by decide : parityAccepted cfg 0x11111111 false = true), (List.append_nil _).symm⟩

theorem witness_CpuControlWritesItsRegistersOrStops :
    (∃ (s : State) (rest : List Bool), s.target = none ∧ s.cfg.ackOk ≠ s.cfg.ackWait
      ∧ s.answers = okAcks s.cfg 6 ++ rest)
      ∧ (∃ (s : State) (rest : List Bool), s.target = none ∧ s.cfg.ackOk ≠ s.cfg.ackWait
        ∧ s.answers = okAcks s.cfg 2 ++ rest)
      ∧ (∃ (s : State) (rest : List Bool) (m : Nat) (k : BitVec 3), s.target = none ∧ s.cfg.ackOk ≠ s.cfg.ackWait
        ∧ failingAck s.cfg k = true ∧ s.answers = okAcks s.cfg m ++ bitsOf k ++ rest ∧ m = 5)
      ∧ ∃ (s : State) (rest : List Bool) (m : Nat) (k : BitVec 3), s.target = none ∧ s.cfg.ackOk ≠ s.cfg.ackWait
        ∧ failingAck s.cfg k = true ∧ s.answers = okAcks s.cfg m ++ bitsOf k ++ rest ∧ m = 1 :=
  ⟨⟨scripted (okAcks cfg 6), [], by decide⟩, ⟨scripted (okAcks cfg 2), [], by decide⟩,
    ⟨scripted (okAcks cfg 5 ++ bitsOf cfg.ackFault), [], 5, cfg.ackFault, by decide⟩,
    ⟨scripted (okAcks cfg 1 ++ bitsOf cfg.ackFault), [], 1, cfg.ackFault, by decide⟩⟩

theorem witness_MemoryAccessGoesThroughTarAndDrw :
    (∃ (s : State) (rest : List Bool) (w : Word) (p : Bool), s.target = none ∧ s.cfg.ackOk ≠ s.cfg.ackWait
      ∧ parityAccepted s.cfg w p = true ∧ s.answers = okAcks s.cfg 1 ++ okRead s.cfg w p ++ rest)
      ∧ ∃ (s : State) (rest : List Bool), s.target = none ∧ s.cfg.ackOk ≠ s.cfg.ackWait
        ∧ s.answers = okAcks s.cfg 2 ++ rest :=
  ⟨⟨scripted (okAcks cfg 1 ++ okRead cfg 0xDEADBEEF true), [], 0xDEADBEEF, true, by decide⟩,
    ⟨scripted (okAcks cfg 2), [], by decide⟩⟩

theorem witness_MemoryAccessFailures :
    (∃ (s : State) (k : BitVec 3) (rest : List Bool), s.target = none ∧ s.cfg.ackOk ≠ s.cfg.ackWait
      ∧ failingAck s.cfg k = true ∧ s.answers = bitsOf k ++ rest)
      ∧ (∃ (s : State) (k : BitVec 3) (rest : List Bool), s.target = none ∧ s.cfg.ackOk ≠ s.cfg.ackWait
        ∧ failingAck s.cfg k = true ∧ s.answers = okAcks s.cfg 1 ++ bitsOf k ++ rest)
      ∧ ∃ (s : State) (k : BitVec 3) (w : Word) (p : Bool) (rest : List Bool), s.target = none
        ∧ s.cfg.ackOk ≠ s.cfg.ackWait ∧ failingAck s.cfg k = true ∧ parityAccepted s.cfg w p = false
        ∧ s.answers = okAcks s.cfg 1 ++ okRead s.cfg w p ++ rest :=
  ⟨⟨scripted (bitsOf cfg.ackFault), cfg.ackFault, [], by decide⟩,
    ⟨scripted (okAcks cfg 1 ++ bitsOf 0b111#3), 0b111, [], by decide⟩,
    ⟨{ scripted (okAcks cfg 1 ++ okRead cfg 1 false) with cfg := checking }, cfg.ackFault, 1, false, [], by decide⟩⟩

theorem attached_memory (addr data len : Word) (image : List Byte) : TargetMemoryInv (attached addr data len image) := by
  intro r h
  cases h
  rfl

theorem witness_ReferenceTargetReadsBackWhatIsWritten :
    ∃ (s : State) (r : RefTarget), s.target = some r ∧ TargetMemoryInv s ∧ r.inject = []
      ∧ r.select.extractLsb' 4 4 ≠ 0xF ∧ s.cfg.ackOk ≠ s.cfg.ackWait ∧ s.argAddr ≠ mscWritecmd s.cfg :=
  ⟨attached 0x20000000 0xDEADBEEF 0 [], target, rfl, attached_memory _ _ _ _, by decide⟩

/-- The last byte of an image of 5, the first byte past it, and a word none of whose bytes is in the image. -/
theorem witness_ImageWordsAreLittleEndianAndPadded :
    (∀ p ∈ [(0, 3), (1, 0), (1, 1), (2, 0)], p.2 < 4 ∧ (4 * p.1 + p.2 < 5 → 4 * p.1 + p.2 < image5.length))
      ∧ ∃ s : State, ∀ i < 4, 4 * 1 + i < (5 : Word).toNat → 4 * 1 + i < s.image.length :=
  ⟨by decide, operands 0 5 image5 [], by decide⟩

/-- Every write acknowledged; the first and the last transaction of each fails. -/
theorem witness_MassAndPageEraseSendTheirCommands :
    (∀ n ∈ [4, 8], ∃ (s : State) (rest : List Bool), s.target = none ∧ s.cfg.ackOk ≠ s.cfg.ackWait
      ∧ s.answers = okAcks s.cfg n ++ rest)
      ∧ ∀ m ∈ [0, 3, 7], ∃ (s : State) (rest : List Bool) (k : BitVec 3), s.target = none
        ∧ s.cfg.ackOk ≠ s.cfg.ackWait ∧ failingAck s.cfg k = true ∧ s.answers = okAcks s.cfg m ++ bitsOf k ++ rest :=
  ⟨fun n _ => ⟨scripted (okAcks cfg n), [], rfl, acks_differ, (List.append_nil _).symm⟩,
    fun m _ => ⟨scripted (okAcks cfg m ++ bitsOf cfg.ackFault), [], cfg.ackFault, rfl, acks_differ, fault_fails,
      (List.append_nil _).symm⟩⟩

/-- A region one byte over the threshold, from the flash base, and one of exactly two pages. -/
theorem witness_FlashEraseFollowsThePolicy :
    ∀ p ∈ [((65537 : Word), 4), (4096, 16)],
      ∃ (s : State) (rest : List Bool), s.argLen = p.1 ∧ s.target = none ∧ s.cfg.ackOk ≠ s.cfg.ackWait
        ∧ s.answers = okAcks s.cfg (if s.argAddr = s.cfg.flashBase ∧ s.cfg.massThreshold.toNat < s.argLen.toNat then 4
          else 8 * ((s.argLen.toNat + s.cfg.pageSize.toNat - 1) / s.cfg.pageSize.toNat)) ++ rest := by
  intro p hp
  simp only [List.mem_cons, List.not_mem_nil, or_false] at hp
  rcases hp with rfl | rfl
  · exact ⟨operands 0 65537 [] (okAcks cfg 4), [], rfl, rfl, by decide, by decide⟩
  · exact ⟨operands 0 4096 [] (okAcks cfg 16), [], rfl, rfl, by decide, by decide⟩

/-- The first and the last transaction of the mass erase, and of the first and the last of two pages. -/
theorem witness_FlashEraseFails :
    (∀ m ∈ [0, 3], ∃ (s : State) (rest : List Bool) (k : BitVec 3), s.target = none ∧ s.cfg.ackOk ≠ s.cfg.ackWait
      ∧ (s.argAddr = s.cfg.flashBase ∧ s.cfg.massThreshold.toNat < s.argLen.toNat) ∧ m < 4
      ∧ failingAck s.cfg k = true ∧ s.answers = okAcks s.cfg m ++ bitsOf k ++ rest)
      ∧ ∀ p ∈ [(0, 0), (0, 7), (1, 0), (1, 7)], ∃ (s : State) (rest : List Bool) (k : BitVec 3), s.target = none
        ∧ s.cfg.ackOk ≠ s.cfg.ackWait
        ∧ ¬ (s.argAddr = s.cfg.flashBase ∧ s.cfg.massThreshold.toNat < s.argLen.toNat)
        ∧ p.1 < (s.argLen.toNat + s.cfg.pageSize.toNat - 1) / s.cfg.pageSize.toNat ∧ p.2 < 8
        ∧ failingAck s.cfg k = true ∧ s.answers = okAcks s.cfg (8 * p.1 + p.2) ++ bitsOf k ++ rest := by
  refine ⟨fun m hm => ⟨operands 0 65537 [] (okAcks cfg m ++ bitsOf cfg.ackFault), [], cfg.ackFault, rfl, acks_differ,
      (by decide : (0 : Word) = cfg.flashBase ∧ cfg.massThreshold.toNat < (65537 : Word).toNat), ?_, fault_fails, (List.append_nil _).symm⟩,
    fun p hp => ⟨operands 0 4096 [] (okAcks cfg (8 * p.1 + p.2) ++ bitsOf cfg.ackFault), [], cfg.ackFault, rfl,
      acks_differ, (by decide : ¬ ((0 : Word) = cfg.flashBase ∧ cfg.massThreshold.toNat < (4096 : Word).toNat)), ?_, ?_,
      fault_fails, (List.append_nil _).symm⟩⟩
  · simp only [List.mem_cons, List.not_mem_nil, or_false] at hm
    omega
  all_goals
    simp only [List.mem_cons, List.not_mem_nil, or_false] at hp
    rcases hp with rfl | rfl | rfl | rfl <;> decide

theorem witness_FlashWriteProgramsEveryWord :
    ∃ (s : State) (rest : List Bool), s.target = none ∧ s.cfg.ackOk ≠ s.cfg.ackWait
      ∧ s.argLen.toNat ≤ s.image.length ∧ s.answers = okAcks s.cfg (2 + 8 * ((s.argLen.toNat + 3) / 4)) ++ rest :=
  ⟨operands 0 5 image5 (okAcks cfg 18), [], by decide⟩

/-- Either transaction of the enable write fails; the first transaction of the first word and the last of the last. -/
theorem witness_FlashWriteStopsAtTheFirstFailure :
    (∀ j ∈ [0, 1], ∃ (s : State) (bad : BitVec 3) (rest : List Bool), s.target = none
      ∧ s.cfg.ackOk ≠ s.cfg.ackWait ∧ failingAck s.cfg bad = true ∧ s.answers = okAcks s.cfg j ++ bitsOf bad ++ rest)
      ∧ ∀ p ∈ [(0, 0), (1, 7)], ∃ (s : State) (bad : BitVec 3) (rest : List Bool), s.target = none
        ∧ s.cfg.ackOk ≠ s.cfg.ackWait ∧ s.argLen.toNat ≤ s.image.length ∧ failingAck s.cfg bad = true
        ∧ p.1 < (s.argLen.toNat + 3) / 4 ∧ p.2 < 8
        ∧ s.answers = okAcks s.cfg (2 + 8 * p.1 + p.2) ++ bitsOf bad ++ rest := by
  refine ⟨fun j _ => ⟨operands 0 5 image5 (okAcks cfg j ++ bitsOf cfg.ackFault), cfg.ackFault, [], rfl, acks_differ,
      fault_fails, (List.append_nil _).symm⟩,
    fun p hp => ⟨operands 0 5 image5 (okAcks cfg (2 + 8 * p.1 + p.2) ++ bitsOf cfg.ackFault), cfg.ackFault, [], rfl,
      acks_differ, (by decide : (5 : Word).toNat ≤ image5.length), fault_fails, ?_, ?_, (List.append_nil _).symm⟩⟩
  all_goals
    simp only [List.mem_cons, List.not_mem_nil, or_false] at hp
    rcases hp with rfl | rfl <;> decide

/-- No mismatch, and exactly as many as `VERIFY_MAX_ERR`. -/
theorem witness_FlashVerifyCountsTheMismatches :
    (∃ (s : State) (ws : List Word) (rest : List Bool), s.target = none ∧ s.cfg.ackOk ≠ s.cfg.ackWait
      ∧ s.argLen.toNat ≤ s.image.length ∧ ws.length = (s.argLen.toNat + 3) / 4
      ∧ mismatches s.image s.argLen.toNat 0 ws = 0 ∧ s.answers = okMemReads s.cfg ws ++ rest)
      ∧ ∃ (s : State) (ws : List Word) (rest : List Bool), s.target = none ∧ s.cfg.ackOk ≠ s.cfg.ackWait
        ∧ s.argLen.toNat ≤ s.image.length ∧ ws.length = (s.argLen.toNat + 3) / 4
        ∧ mismatches s.image s.argLen.toNat 0 ws = s.cfg.verifyMaxErr ∧ s.answers = okMemReads s.cfg ws ++ rest :=
  ⟨⟨operands 0 5 image5 (okMemReads cfg [0x04030201, 0xFFFFFF05]), [0x04030201, 0xFFFFFF05], [], rfl, by decide,
      by decide, by decide, by decide, (List.append_nil _).symm⟩,
    ⟨{ operands 0 5 image5 (okMemReads cfg [0, 0]) with cfg := { cfg with verifyMaxErr := 2 } }, [0, 0], [], rfl,
      by decide, by decide, by decide, by decide, (List.append_nil _).symm⟩⟩

theorem witness_FlashVerifyStopsEarly :
    ∃ (s : State) (ws : List Word) (w : Word) (rest : List Bool), s.target = none ∧ s.cfg.ackOk ≠ s.cfg.ackWait
      ∧ s.argLen.toNat ≤ s.image.length ∧ ws.length < (s.argLen.toNat + 3) / 4
      ∧ mismatches s.image s.argLen.toNat 0 ws = s.cfg.verifyMaxErr ∧ w ≠ wordOf s.image s.argLen.toNat ws.length
      ∧ s.answers = okMemReads s.cfg (ws ++ [w]) ++ rest :=
  ⟨{ operands 0 5 image5 (okMemReads cfg [0, 0]) with cfg := { cfg with verifyMaxErr := 1 } }, [0], 0, [], rfl, by decide,
    by decide, by decide, by decide, by decide, (List.append_nil _).symm⟩

theorem witness_FailedReadsOfErasedWordsVerify :
    ∃ (s : State) (k : BitVec 3) (rest : List Bool), s.target = none ∧ s.cfg.ackOk ≠ s.cfg.ackWait
      ∧ s.argLen.toNat ≤ s.image.length ∧ failingAck s.cfg k = true
      ∧ (∀ i < (s.argLen.toNat + 3) / 4, wordOf s.image s.argLen.toNat i = 0xFFFFFFFF)
      ∧ s.answers = (List.replicate ((s.argLen.toNat + 3) / 4) (okAcks s.cfg 1 ++ bitsOf k)).flatten ++ rest :=
  ⟨operands 0 4 [0xFF, 0xFF, 0xFF, 0xFF] (okAcks cfg 1 ++ bitsOf cfg.ackFault), cfg.ackFault, [], by decide⟩

theorem witness_FlashProgressStaysInItsPhase :
    ∃ s : State, s.cfg.valid = true
      ∧ ∀ i ∈ [Instr.flashErase, .flashWrite, .flashVerify], ∃ t, exec i s = .next t := by
  refine ⟨scripted [], by decide, fun i hi => ?_⟩
  simp only [List.mem_cons, List.not_mem_nil, or_false] at hi
  rcases hi with rfl | rfl | rfl <;> exact ⟨_, rfl⟩

theorem witness_ModelFaultsAreRecordedAndNeverCleared :
    (∃ (s t : State) (f : Fault), f ∈ s.faults ∧ step s = .next t)
      ∧ (∃ (s : State) (rest : List Bool), s.target = none ∧ s.cfg.ackOk ≠ s.cfg.ackWait
        ∧ s.image.length < s.argLen.toNat ∧ s.answers = okAcks s.cfg (2 + 8 * ((s.argLen.toNat + 3) / 4)) ++ rest)
      ∧ (∃ (s : State) (v : Word), s.session.bind Session.idcode = some v)
      ∧ ∃ s : State, s.session.bind Session.idcode = none :=
  ⟨⟨{ pending 0x0001 with faults := [.imageShort] }, _, .imageShort, by decide, rfl⟩,
    ⟨operands 0 5 [1, 2, 3, 4] (okAcks cfg 18), [], by decide⟩,
    ⟨{ scripted [] with session := some { Session.fresh with idcode := some 7 } }, 7, rfl⟩, ⟨scripted [], rfl⟩⟩

theorem witness_VerifyAfterWriteFindsNoMismatch :
    ∃ (s : State) (r : RefTarget), s.target = some r ∧ TargetMemoryInv s ∧ r.inject = []
      ∧ r.select.extractLsb' 4 4 ≠ 0xF ∧ s.cfg.valid = true ∧ refLayout s.cfg = true
      ∧ s.argLen.toNat ≤ s.image.length ∧ s.argAddr.toNat % 4 = 0 ∧ regionClear s.cfg s.argAddr s.argLen = true :=
  ⟨attached 0 0 5 image5, target, rfl, attached_memory _ _ _ _, by decide⟩

theorem witness_RunIsNotReentered : ∃ s : State, s.runActive = true :=
  ⟨{ scripted [] with runActive := true }, rfl⟩

theorem witness_RunProgramsTheReferenceTarget :
    ∃ (s : State) (r : RefTarget), s.target = some r ∧ TargetMemoryInv s ∧ r.inject = [] ∧ s.runActive = false
      ∧ s.cfg.valid = true ∧ refLayout s.cfg = true ∧ r.idr ≠ s.cfg.idrLocked ∧ s.argLen.toNat ≤ s.image.length
      ∧ s.argAddr.toNat % 4 = 0 ∧ regionClear s.cfg s.argAddr s.argLen = true :=
  ⟨attached 0 0 5 image5, target, rfl, attached_memory _ _ _ _, by decide⟩

theorem witness_RunsEnd : ∃ s t : State, s.cfg.valid = true ∧ s.runActive = false ∧ exec .run s = .next t :=
  ⟨operands 0 5 image5 [], _, by decide, rfl, rfl⟩

/-- What every clause of `RunsAbortAtTheFirstFailure` supposes, with `ACK_FAULT` as the failing ACK. -/
def abortable (s : State) : Prop :=
  s.target = none ∧ s.cfg.ackOk ≠ s.cfg.ackWait ∧ s.runActive = false ∧ failingAck s.cfg cfg.ackFault = true

/-- And what the clauses past the access port suppose, for one IDCODE, CTRL/STAT word and IDR. -/
def connectable (s : State) : Prop :=
  abortable s ∧ poweredUp s.cfg 0xF0000000 = true ∧ 0 < s.cfg.nPoll ∧ (0x24770011 : Word) ≠ s.cfg.idrLocked

theorem connects :
    poweredUp cfg 0xF0000000 = true ∧ 0 < cfg.nPoll ∧ (0x24770011 : Word) ≠ cfg.idrLocked := by decide

theorem operands_connectable (addr len : Word) (image : List Byte) (answers : List Bool) :
    connectable (operands addr len image answers) :=
  ⟨⟨rfl, acks_differ, rfl, fault_fails⟩, connects⟩

/-- The answers to a run of `cfg` up to the `n`-th transaction after its connection. -/
def runAnswers (n : Nat) : List Bool := connectingAnswers cfg 0x2BA01477 0xF0000000 0x24770011 7 ++ okAcks cfg n

/-- The first and the last transaction of the connection; a run out of polls; a locked part; the first and the last
transaction of `CPU_HALT`, of `CPU_RESET` and of the enable write. -/
theorem witness_RunsAbortAtTheFirstFailure :
    (∀ m ∈ [0, 1, 3, 6], ∃ (s : State) (y : Sent), connectable s ∧ (connection s.cfg 0x2BA01477 0xF0000000 0x24770011)[m]? = some y
      ∧ m ≠ 2 ∧ s.answers
        = connectingAnswers s.cfg 0x2BA01477 0xF0000000 0x24770011 m ++ bitsOf cfg.ackFault ++ [])
      ∧ (∃ (s : State) (qs : List (BitVec 3 × Word)) (q : BitVec 3 × Word), abortable s ∧ qs.length + 1 = s.cfg.nPoll
        ∧ (∀ z ∈ qs ++ [q], pollFails s.cfg z = true)
        ∧ s.answers = connectingAnswers s.cfg 0 0 0 2 ++ (qs ++ [q]).flatMap (pollAnswer s.cfg) ++ [])
      ∧ (∃ s : State, connectable s ∧ s.answers = connectingAnswers s.cfg 0x2BA01477 0xF0000000 s.cfg.idrLocked 5 ++ [])
      ∧ ∀ m ∈ [0, 5], m < 6 ∧ ∃ s : State, connectable s ∧ s.answers = runAnswers m ++ bitsOf cfg.ackFault ++ [] := by
  refine ⟨fun m hm => ?_, ⟨{ scripted (connectingAnswers polling 0 0 0 2
        ++ (failedPolls ++ [(0b100, 0)]).flatMap (pollAnswer polling)) with cfg := polling }, failedPolls, (0b100, 0),
      ⟨rfl, acks_differ, rfl, fault_fails⟩,
      by decide, failedPolls_fail, (List.append_nil _).symm⟩,
    ⟨operands 0 0 [] (connectingAnswers cfg 0x2BA01477 0xF0000000 cfg.idrLocked 5), operands_connectable _ _ _ _, (List.append_nil _).symm⟩,
    fun m hm => ⟨?_, operands 0 0 [] (runAnswers m ++ bitsOf cfg.ackFault), operands_connectable _ _ _ _, (List.append_nil _).symm⟩⟩
  · simp only [List.mem_cons, List.not_mem_nil, or_false] at hm
    refine ⟨operands 0 0 [] (connectingAnswers cfg 0x2BA01477 0xF0000000 0x24770011 m ++ bitsOf cfg.ackFault), ?_⟩
    rcases hm with rfl | rfl | rfl | rfl <;> exact ⟨_, operands_connectable _ _ _ _, rfl, by decide, (List.append_nil _).symm⟩
  · simp only [List.mem_cons, List.not_mem_nil, or_false] at hm
    omega

/-- Runs that fail in the flash phases: a mass erase's first and last transaction; those of the first and the last of
two pages; those of the enable write; those of the first word and of the last of two. -/
theorem witness_RunsAbortInErase :
    (∀ m ∈ [0, 3], m < 4 ∧ ∃ s : State, connectable s ∧ wantsMassErase s.cfg s.argAddr s.argLen = true
      ∧ s.answers = runAnswers (6 + m) ++ bitsOf cfg.ackFault ++ [])
      ∧ (∀ p ∈ [(0, 0), (1, 7)], p.2 < 8 ∧ ∃ s : State, connectable s
        ∧ wantsMassErase s.cfg s.argAddr s.argLen = false ∧ p.1 < pageCount s.cfg s.argLen ∧ s.answers = runAnswers (6 + 8 * p.1 + p.2) ++ bitsOf cfg.ackFault ++ [])
      ∧ (∀ j ∈ [0, 1], j < 2 ∧ ∃ s : State, connectable s ∧
        s.answers = runAnswers (6 + eraseAcks s.cfg s.argAddr s.argLen + j) ++ bitsOf cfg.ackFault ++ [])
      ∧ ∀ p ∈ [(0, 0), (1, 7)], p.2 < 8 ∧ ∃ s : State, connectable s ∧ s.argLen.toNat ≤ s.image.length
        ∧ p.1 < (s.argLen.toNat + 3) / 4
        ∧ s.answers = runAnswers (6 + eraseAcks s.cfg s.argAddr s.argLen + 2 + 8 * p.1 + p.2)
          ++ bitsOf cfg.ackFault ++ [] := by
  refine ⟨fun m hm => ⟨?_, operands 0 65537 [] (runAnswers (6 + m) ++ bitsOf cfg.ackFault),
      operands_connectable _ _ _ _, (by decide : wantsMassErase cfg 0 65537 = true), (List.append_nil _).symm⟩,
    fun p hp => ⟨?_, operands 0 4096 [] (runAnswers (6 + 8 * p.1 + p.2) ++ bitsOf cfg.ackFault),
      operands_connectable _ _ _ _, (by decide : wantsMassErase cfg 0 4096 = false), ?_, (List.append_nil _).symm⟩,
    fun j hj => ⟨?_, operands 0 5 [] (runAnswers (6 + eraseAcks cfg 0 5 + j) ++ bitsOf cfg.ackFault),
      operands_connectable _ _ _ _, (List.append_nil _).symm⟩,
    fun p hp => ⟨?_, operands 0 5 image5 (runAnswers (6 + eraseAcks cfg 0 5 + 2 + 8 * p.1 + p.2) ++ bitsOf cfg.ackFault),
      operands_connectable _ _ _ _, (by decide : (5 : Word).toNat ≤ image5.length), ?_, (List.append_nil _).symm⟩⟩
  · simp only [List.mem_cons, List.not_mem_nil, or_false] at hm
    omega
  · simp only [List.mem_cons, List.not_mem_nil, or_false] at hp
    rcases hp with rfl | rfl <;> decide
  · simp only [List.mem_cons, List.not_mem_nil, or_false] at hp
    rcases hp with rfl | rfl <;> decide
  · simp only [List.mem_cons, List.not_mem_nil, or_false] at hj
    omega
  · simp only [List.mem_cons, List.not_mem_nil, or_false] at hp
    rcases hp with rfl | rfl <;> decide
  · simp only [List.mem_cons, List.not_mem_nil, or_false] at hp
    rcases hp with rfl | rfl <;> decide

/-- The answers to a run of `image5` up to its verify. -/
def verifyAnswers : List Bool := runAnswers (6 + eraseAcks cfg 0 5 + 2 + 8 * 2)

/-- Runs that fail at the end of the verify, early in it, and in either transaction of `CPU_RESET`. -/
theorem witness_RunsAbortInVerify :
    (∃ (s : State) (ws : List Word), connectable s ∧ s.argLen.toNat ≤ s.image.length
      ∧ ws.length = (s.argLen.toNat + 3) / 4
      ∧ mismatches s.image s.argLen.toNat 0 ws ≠ 0 ∧ mismatches s.image s.argLen.toNat 0 ws ≤ s.cfg.verifyMaxErr
      ∧ s.answers = verifyAnswers ++ okMemReads s.cfg ws ++ [])
      ∧ (∃ (s : State) (ws : List Word) (z : Word), connectable s ∧ s.argLen.toNat ≤ s.image.length
        ∧ ws.length < (s.argLen.toNat + 3) / 4 ∧ mismatches s.image s.argLen.toNat 0 ws = s.cfg.verifyMaxErr
        ∧ z ≠ wordOf s.image s.argLen.toNat ws.length
        ∧ s.answers = verifyAnswers ++ okMemReads s.cfg (ws ++ [z]) ++ [])
      ∧ ∀ j ∈ [0, 1], ∃ s : State, connectable s ∧ s.argLen.toNat ≤ s.image.length ∧ s.answers
        = verifyAnswers ++ okMemReads s.cfg (imageWords s.image s.argLen) ++ okAcks s.cfg j ++ bitsOf cfg.ackFault ++ [] :=
  ⟨⟨operands 0 5 image5 (verifyAnswers ++ okMemReads cfg [0, 0xFFFFFF05]), [0, 0xFFFFFF05],
      operands_connectable _ _ _ _, by decide, by decide,
      (by decide : mismatches image5 5 0 [0, 0xFFFFFF05] ≠ 0),
      (by decide : mismatches image5 5 0 [0, 0xFFFFFF05] ≤ cfg.verifyMaxErr), (List.append_nil _).symm⟩,
    ⟨{ operands 0 5 image5 (verifyAnswers ++ okMemReads cfg [0, 0]) with cfg := { cfg with verifyMaxErr := 1 } }, [0], 0,
      ⟨⟨rfl, acks_differ, rfl, fault_fails⟩, connects⟩, by decide, by decide, (by decide : mismatches image5 5 0 [0] = 1),
      by decide, (List.append_nil _).symm⟩,
    fun j _ => ⟨operands 0 5 image5 (verifyAnswers ++ okMemReads cfg (imageWords image5 5) ++ okAcks cfg j
      ++ bitsOf cfg.ackFault), operands_connectable _ _ _ _,
      (by decide : (5 : Word).toNat ≤ image5.length), (List.append_nil _).symm⟩⟩

/-- The window's last millisecond and the first after it (V2.14). -/
theorem witness_TickBlinksAndStartsTheWaitingRun :
    (∃ s : State, ¬ (s.pressPending = true ∧ s.cfg.doubleClickMs ≤ s.argData.toNat - s.pressMs) ∧ s.pressPending = true)
      ∧ ∃ s : State, s.pressPending = true ∧ s.cfg.doubleClickMs ≤ s.argData.toNat - s.pressMs :=
  ⟨⟨{ tickAt .idle 0 1499 false with pressPending := true, pressMs := 1000 }, by decide⟩,
    ⟨{ tickAt .idle 0 1500 false with pressPending := true, pressMs := 1000 }, by decide⟩⟩

theorem witness_PressDecidesByTheWindow :
    (∃ s : State, s.pressPending = true ∧ s.argData.toNat - s.pressMs < s.cfg.doubleClickMs)
      ∧ (∃ s : State, s.pressPending = false)
      ∧ ∃ s : State, s.pressPending = true ∧ s.cfg.doubleClickMs ≤ s.argData.toNat - s.pressMs :=
  ⟨⟨{ scripted [] with pressPending := true, pressMs := 0, argData := 499 }, by decide⟩, ⟨scripted [], by decide⟩,
    ⟨{ scripted [] with pressPending := true, pressMs := 0, argData := 500 }, by decide⟩⟩

end Sys2Proof.Machine.Tests
end

section
/-!
SUPPORT. One traversal of the dispatch: a relation between states that holds of transactions, of reset pulses, of the
components of a run and of a write of the result registers holds of every instruction but `RUN`, `TICK` and `PRESS`;
where it holds of a run and of the LED and trigger registers too, it holds of every instruction.
-/

namespace Sys2Proof.Machine

/-! ### Headers and reset pulses. -/

/-- A header row sends its own header (30_encoding.md R90, R92). -/
theorem exec_of_headerOf {i : Instr} {f : ReqFormat} {port : Port} {rnw : Bool} {a : BitVec 2}
    (h : headerOf i = some (f, port, rnw, a)) (s : State) : exec i s = headerFrame f port rnw a s := by
  cases i <;> cases h <;> rfl

theorem hwResetPulse_eq_play (s : State) :
    hwResetPulse s = play (pulseEv s.cfg.tRstHoldUs s.cfg.tRstBootUs) s := by
  simp only [hwResetPulse, setRst_eq_play, delay_eq_play, ← play_append]
  rfl

/-- One cycle of the reset-pin diagnostic is a reset pulse (45_status_orchestrator.md R312). -/
theorem resetPinCycles_succ (n : Nat) (s : State) :
    resetPinCycles (n + 1) s
      = resetPinCycles n (play (pulseEv (s.cfg.rstTestLowMs * 1000) (s.cfg.rstTestHighMs * 1000)) s) := by
  simp only [resetPinCycles, setRst_eq_play, delay_eq_play, ← play_append]
  rfl

/-! ### The traversal. -/

/-- A relation that transactions, reset pulses, the components of a run and writes of the result registers keep, closed
under doing one thing after another. -/
structure Components (R : State → State → Prop) : Prop extends Walk R where
  pulse : ∀ low high s, R s (play (pulseEv low high) s)
  linkInit : ∀ s, R s (linkInit s).st
  apConfig : ∀ s, R s (apConfig s).st
  erase : ∀ s, R s (flashErase s.argAddr s.argLen s).st
  write : ∀ s, R s (flashWrite s.argAddr s.argLen s).st
  verify : ∀ s, R s (flashVerify s.argAddr s.argLen s).st
  result : ∀ k d a s, R s { s with resKind := k, resData := d, resAck := a }

namespace Components

variable {R : State → State → Prop}

/-- The report of a component that can fail writes `RES_KIND` alone. -/
theorem report (c : Components R) {s : State} {r : Res} (h : R s r.st) : R s (report r) := by
  cases r with
  | ok t => exact c.trans h (c.result .ok t.resData t.resAck t)
  | raised e t => exact c.trans h (c.result (.error e) t.resData t.resAck t)

theorem resetPinTest (c : Components R) (s : State) : R s (resetPinTest s) := by
  rw [Machine.resetPinTest]
  generalize s.cfg.rstTestCycles = n
  induction n generalizing s with
  | zero => exact c.refl s
  | succ n ih => rw [resetPinCycles_succ]; exact c.trans (c.pulse _ _ s) (ih _)

/-- A header row sends its header or is refused. -/
theorem header (c : Components R) {i : Instr} {x : ReqFormat × Port × Bool × BitVec 2} (h : headerOf i = some x)
    (s : State) : ∃ t, exec i s = .next t ∧ R s t := by
  refine ⟨_, exec_of_headerOf h s, ?_⟩
  split_ifs
  · exact c.wire (.sendHeader _ _ _ _ s)
  · exact c.result .refused s.resData s.resAck s

/-- Every instruction but `RUN`, `TICK` and `PRESS` completes and keeps the relation. -/
theorem exec_standalone (c : Components R) {i : Instr} (hr : i ≠ .run) (ht : i ≠ .tick) (hp : i ≠ .press) (s : State) :
    ∃ t, exec i s = .next t ∧ R s t := by
  cases hh : headerOf i with
  | some x => exact c.header hh s
  | none =>
    cases i with
    | clkCycle => exact ⟨_, rfl, c.wire (.clockCycle s)⟩
    | writeBit b => exact ⟨_, rfl, c.wire (.writeBits [b] s)⟩
    | readBit => exact ⟨_, rfl, c.trans (c.wire (.readBit s)) (c.result _ _ _ _)⟩
    | writeWord => exact ⟨_, rfl, c.wire (.writeWord _ s)⟩
    | readWord => exact ⟨_, rfl, c.trans (c.wire (.readWord s)) (c.result _ _ _ _)⟩
    | hwResetPulse => exact ⟨_, rfl, hwResetPulse_eq_play s ▸ c.pulse _ _ s⟩
    | lineReset => exact ⟨_, rfl, c.wire ((OnWire.drive _ _ s).trans (.drive _ _ _))⟩
    | jtagToSwd => exact ⟨_, rfl, c.wire (.jtagToSwd s)⟩
    | linkInit => exact ⟨_, rfl, c.report (c.linkInit s)⟩
    | xfer port rnw a => exact ⟨_, rfl, c.trans (c.wire (.xfer _ _ _ _ s)) (c.result _ _ _ _)⟩
    | powerUp => exact ⟨_, rfl, c.report (c.wire (.powerUp s))⟩
    | apConfig => exact ⟨_, rfl, c.report (c.apConfig s)⟩
    | cpuHalt => exact ⟨_, rfl, c.report (c.wire (.cpuHalt s))⟩
    | cpuReset => exact ⟨_, rfl, c.report (c.wire (.cpuReset s))⟩
    | memRead => exact ⟨_, rfl, c.trans (c.wire (.memRead _ s)) (c.result _ _ _ _)⟩
    | memWrite => exact ⟨_, rfl, c.trans (c.wire (.memWrite _ _ s)) (c.result _ _ _ _)⟩
    | flashErase => exact ⟨_, rfl, c.report (c.erase s)⟩
    | massErase => exact ⟨_, rfl, c.report (c.wire (.massErase s))⟩
    | pageErase => exact ⟨_, rfl, c.report (c.wire (.pageErase _ s))⟩
    | flashWrite => exact ⟨_, rfl, c.report (c.write s)⟩
    | flashVerify => exact ⟨_, rfl, c.report (c.verify s)⟩
    | run => exact absurd rfl hr
    | resetPinTest => exact ⟨_, rfl, c.resetPinTest s⟩
    | tick => exact absurd rfl ht
    | press => exact absurd rfl hp
    | _ => cases hh

end Components

/-- A relation that runs and writes of the LED and trigger registers keep as well. -/
structure Commands (R : State → State → Prop) : Prop extends Components R where
  run : ∀ s, R s (run s)
  trigger : ∀ led last pending ms s,
    R s { s with led := led, ledLastMs := last, pressPending := pending, pressMs := ms }

namespace Commands

variable {R : State → State → Prop}

theorem blink (c : Commands R) (now : Nat) (s : State) : R s (blink now s) := by
  unfold Machine.blink
  split
  · exact c.trigger false s.ledLastMs s.pressPending s.pressMs s
  · exact c.trigger true s.ledLastMs s.pressPending s.pressMs s
  · split_ifs
    · exact c.trigger _ now s.pressPending s.pressMs s
    · exact c.refl s

/-- The run that a waiting press starts. -/
theorem releasedRun (c : Commands R) (s : State) : R s (Machine.run { s with pressPending := false }) :=
  c.trans (c.trigger s.led s.ledLastMs false s.pressMs s) (c.run _)

theorem triggerWindow (c : Commands R) (now : Nat) (s : State) : R s (triggerWindow now s) := by
  unfold Machine.triggerWindow
  split_ifs
  · exact c.releasedRun s
  · exact c.refl s

theorem holdPress (c : Commands R) (now : Nat) (s : State) : R s (holdPress now s) :=
  c.trigger s.led s.ledLastMs true now s

theorem press (c : Commands R) (now : Nat) (s : State) : R s (press now s) := by
  unfold Machine.press
  split_ifs
  · exact c.trans (c.trigger s.led s.ledLastMs false s.pressMs s) (c.resetPinTest _)
  · exact c.trans (c.releasedRun s) (c.holdPress now _)
  · exact c.holdPress now s

/-- Every instruction completes and keeps the relation. -/
theorem exec (c : Commands R) (i : Instr) (s : State) : ∃ t, exec i s = .next t ∧ R s t := by
  by_cases hr : i = .run
  · subst hr; exact ⟨_, rfl, c.run s⟩
  by_cases ht : i = .tick
  · subst ht; exact ⟨_, rfl, c.trans (c.blink _ s) (c.triggerWindow _ _)⟩
  by_cases hp : i = .press
  · subst hp; exact ⟨_, rfl, c.press _ s⟩
  exact c.exec_standalone hr ht hp s

/-- What an instruction answers is related to where it started. -/
theorem of_exec (c : Commands R) {i : Instr} {s t : State} (h : Machine.exec i s = .next t) : R s t := by
  obtain ⟨u, hu, hR⟩ := c.exec i s
  cases h.symm.trans hu
  exact hR

end Commands

/-- The same of an instruction that is no `RUN`, `TICK` or `PRESS`. -/
theorem Components.of_exec_standalone {R : State → State → Prop} (c : Components R) {i : Instr} {s t : State}
    (hr : i ≠ .run) (ht : i ≠ .tick) (hp : i ≠ .press) (h : exec i s = .next t) : R s t := by
  obtain ⟨u, hu, hR⟩ := c.exec_standalone hr ht hp s
  cases h.symm.trans hu
  exact hR

end Sys2Proof.Machine
end

section
/-!
SUPPORT. What one step can do, and what every instruction keeps of the lines, the time, the event history and the host's
side.
-/

namespace Sys2Proof.Machine

/-! ### The step. -/

/-- A step that runs a decoded instruction (10_state.md R26, R41). -/
theorem step_of_command {s : State} {h : HostWrite} {rest : List HostWrite} {i : Instr} (hv : s.cfg.valid = true)
    (hh : s.host = h :: rest) (hd : decode h.frame = .ok i) :
    step s = mapNext endCommand (exec i (beginCommand i (acceptHostWrite h rest s))) := by
  simp [step, hv, hh, hd]

theorem mapNext_eq_next {f : State → State} {o : Host.Outcome State Fault Refusal} {t : State}
    (h : mapNext f o = .next t) : ∃ u, o = .next u ∧ t = f u := by
  cases o with
  | next u => cases h; exact ⟨u, rfl, rfl⟩
  | fault r => cases h
  | refused r => cases h

/-- A step that answers a next state waits, refuses a word that is no command, or begins, runs and ends a command. -/
theorem step_cases {s t : State} (h : step s = .next t) :
    (s.host = [] ∧ t = s)
    ∨ (∃ w rest e, s.host = w :: rest ∧ decode w.frame = .error e ∧ t = refuseWord (acceptHostWrite w rest s))
    ∨ ∃ w rest i u, s.host = w :: rest ∧ decode w.frame = .ok i
        ∧ exec i (beginCommand i (acceptHostWrite w rest s)) = .next u ∧ t = endCommand u := by
  unfold step at h
  split_ifs at h
  split at h
  next hh => cases h; exact .inl ⟨hh, rfl⟩
  next w rest hh =>
    split at h
    next e hd => cases h; exact .inr (.inl ⟨w, rest, e, hh, hd, rfl⟩)
    next i hd =>
      obtain ⟨u, hu, rfl⟩ := mapNext_eq_next h
      exact .inr (.inr ⟨w, rest, i, u, hh, hd, hu, rfl⟩)

/-! ### What every instruction keeps. -/

theorem Reaches.pulseEv {len : Nat} (low high : Nat) (s : State) : Reaches len s (play (pulseEv low high) s) :=
  ⟨⟨Machine.pulseEv low high, rfl, rfl, rfl, rfl, rfl, rfl, rfl, rfl, rfl, rfl⟩, rfl, id, id, fun _ => id, .inl rfl,
    fun _ => rfl⟩

/-- Every instruction reaches its next state, for the image length the host wrote. -/
theorem commands_reaches : Commands fun s t => Reaches s.argLen.toNat s t where
  refl s := Reaches.refl s
  trans h₁ h₂ := h₁.trans (argLen_of_hostSide h₁.host ▸ h₂)
  wire := Reaches.ofWire
  pulse low high s := Reaches.pulseEv low high s
  linkInit s := Reaches.linkInit s
  apConfig s := Reaches.apConfig s
  erase s := Reaches.flashErase s.argAddr s.argLen s
  write s := Reaches.flashWrite s.argAddr s.argLen s
  verify s := Reaches.flashVerify s.argAddr s.argLen s
  result _ _ _ _ := Reaches.silent rfl rfl id id fun _ => id
  run := Reaches.run
  trigger _ _ _ _ _ := Reaches.silent rfl rfl id id fun _ => id

/-- `EV`, `REG.step` and `REG.time_us` grow together. -/
theorem Reaches.history {len : Nat} {s t : State} (h : Reaches len s t) :
    ∃ evs, t.ev = s.ev ++ evs ∧ t.stepCount = s.stepCount + evs.length ∧ t.timeUs = s.timeUs + delayOf evs := by
  obtain ⟨evs, -, -, -, -, htime, hev, hstep, -⟩ := h.events
  exact ⟨evs, by simp [State.ev, hev], hstep, htime⟩

/-- What follows the event history goes on following it. -/
theorem HistoryInv.of_reaches {len : Nat} {s t : State} (hs : HistoryInv s) (h : Reaches len s t) : HistoryInv t := by
  obtain ⟨hclk, hdio, hdir, hrst, htime, hsample⟩ := hs
  obtain ⟨evs, kclk, kdio, kdir, krst, ktime, kev, -, ksample, -⟩ := h.events
  have he : t.ev = s.ev ++ evs := by simp [State.ev, kev]
  refine ⟨?_, ?_, ?_, ?_, ?_, ?_⟩
  · rw [he, clkAfter_append, ← hclk, kclk]
  · rw [he, dioAfter_append, ← hdio, kdio]
  · rw [he, dirAfter_append, ← hdir, kdir]
  · rw [he, rstAfter_append, ← hrst, krst]
  · rw [he, delayOf_append, ← htime, ktime]
  · rw [he, samplesOnlyInput_append, hsample, ← hdir, ksample]; rfl

/-- The reference parameters meet their constraints, whatever the open ones are (60_exceptions.md R345). -/
theorem reference_valid : Params.reference.valid = true := by decide

end Sys2Proof.Machine
end

section
/-!
SUPPORT. What every instruction keeps between commands: the run state outside a run, the run flag, and the range of
`REG.err_count`.
-/

namespace Sys2Proof.Machine

/-! ### The frame of the standalone commands. -/

/-- The state with everything a command without a run may change set aside: as `offCommand`, and the rest of the result
registers. -/
def State.offReport (s : State) : State := { s.offCommand with resKind := .ok, resAck := 0 }

theorem walk_offReport : Walk fun s t => t.offReport = s.offReport :=
  .keeps State.offReport fun h => by simp only [State.offReport, State.offCommand, h.offWire]

theorem compareWord_offReport (len : Word) (k : Nat) (w : Word) (s : State) :
    (compareWord len k w s).st.offReport = s.offReport := by
  unfold compareWord
  split_ifs <;> rfl

theorem verifyEnd_offReport (s : State) : (verifyEnd s).st.offReport = s.offReport := by
  simp only [verifyEnd]
  split_ifs <;> rfl

theorem deviceParameters_offReport (s : State) : (deviceParameters s).offReport = s.offReport := by
  unfold deviceParameters
  split_ifs <;> rfl

/-- A command without a run keeps everything that is off the report. -/
theorem components_offReport : Components fun s t => t.offReport = s.offReport where
  toWalk := walk_offReport
  pulse _ _ _ := rfl
  linkInit := walk_offReport.linkInit (fun s => hwResetPulse_eq_play s ▸ rfl) (fun _ => rfl) fun _ => rfl
  apConfig := walk_offReport.apConfig (fun _ => rfl) (fun _ => rfl) deviceParameters_offReport
  erase s := walk_offReport.flashErase (fun _ _ => rfl) (fun _ _ => rfl) _ _ s
  write s := walk_offReport.flashWrite (fun _ _ => rfl) (fun _ _ => rfl) (fun _ _ _ => rfl) _ _ s
  verify s := walk_offReport.flashVerify (fun _ _ => rfl) (fun _ _ => rfl) (fun _ _ _ => rfl) compareWord_offReport
    (fun _ => rfl) verifyEnd_offReport _ _ s
  result _ _ _ _ := rfl

theorem runActive_of_offReport {s t : State} (h : t.offReport = s.offReport) : t.runActive = s.runActive :=
  (congrArg State.runActive h :)

/-! ### The run, part by part. -/

/-- The components of a run, each given as a whole (45_status_orchestrator.md R300). -/
theorem Walk.runSteps {R : State → State → Prop} (w : Walk R) (link : ∀ s, R s (Machine.linkInit s).st)
    (port : ∀ s, R s (Machine.apConfig s).st) (status : ∀ v s, R s (Machine.setStatus v s)) {base len : Word}
    (erase : ∀ s, R s (Machine.flashErase base len s).st) (write : ∀ s, R s (Machine.flashWrite base len s).st)
    (verify : ∀ s, R s (Machine.flashVerify base len s).st) (s : State) : R s (Machine.runSteps base len s).st :=
  w.andThen (link s) fun _ => w.andThen (w.wire (.powerUp _)) fun t => w.andThen (port t) fun _ =>
    w.andThen (w.wire (.cpuHalt _)) fun _ => w.andThen (w.trans (status _ _) (erase _)) fun t => w.andThen (write t) fun _ =>
    w.andThen (w.trans (status _ _) (verify _)) fun _ => w.wire (.cpuReset _)

/-! ### The run flag. -/

/-- A run that finds no run active leaves none active (10_state.md R36). -/
theorem run_runActive (s : State) (h : s.runActive = false) : (run s).runActive = false := by
  rw [run, if_neg (by simp [h])]
  cases runSteps s.argAddr s.argLen (startRun s) <;> rfl

/-- No instruction leaves a run active that it did not find active. -/
theorem commands_runActive : Commands fun s t => s.runActive = false → t.runActive = false where
  refl _ := id
  trans h₁ h₂ := h₂ ∘ h₁
  wire h := (runActive_of_offReport (walk_offReport.wire h)).trans
  pulse _ _ _ := id
  linkInit s := (runActive_of_offReport (components_offReport.linkInit s)).trans
  apConfig s := (runActive_of_offReport (components_offReport.apConfig s)).trans
  erase s := (runActive_of_offReport (components_offReport.erase s)).trans
  write s := (runActive_of_offReport (components_offReport.write s)).trans
  verify s := (runActive_of_offReport (components_offReport.verify s)).trans
  result _ _ _ _ := id
  run := run_runActive
  trigger _ _ _ _ _ := id

/-! ### The range of `REG.err_count` (10_state.md R37). -/

/-- How a part of a verify that allows `m` mismatches leaves `REG.err_count`: only a raised kind has one more. -/
def Res.counted (m : Nat) : Res → Prop
  | .ok s => s.cfg.verifyMaxErr = m ∧ s.errCount ≤ m
  | .raised _ s => s.cfg.verifyMaxErr = m ∧ s.errCount ≤ m + 1

theorem Res.counted_st {m : Nat} {r : Res} (h : r.counted m) : r.st.cfg.verifyMaxErr = m ∧ r.st.errCount ≤ m + 1 := by
  cases r with
  | ok s => exact ⟨h.1, Nat.le_succ_of_le h.2⟩
  | raised e s => exact h

theorem Res.counted_andThen {m : Nat} {r : Res} {f : State → Res} (h₁ : r.counted m)
    (h₂ : ∀ t, t.cfg.verifyMaxErr = m → t.errCount ≤ m → (f t).counted m) : (r.andThen f).counted m := by
  cases r with
  | ok t => exact h₂ t h₁.1 h₁.2
  | raised e t => exact h₁

/-- The mismatch that exceeds `VERIFY_MAX_ERR` ends the verify (44_flash.md R260). -/
theorem compareWord_counted {m : Nat} (len : Word) (k : Nat) (w : Word) (s : State) (hm : s.cfg.verifyMaxErr = m)
    (h : s.errCount ≤ m) : (compareWord len k w s).counted m := by
  unfold compareWord
  split_ifs with _ hlast
  · exact ⟨hm, h⟩
  · exact ⟨hm, Nat.succ_le_succ h⟩
  · exact ⟨hm, by simpa [hm] using hlast⟩

theorem verifyImageWord_counted {m : Nat} (base len : Word) (k : Nat) (s : State) (hm : s.cfg.verifyMaxErr = m)
    (h : s.errCount ≤ m) : (verifyImageWord base len k s).counted m := by
  have hw := (OnWire.memRead (wordAddr base k) { s with index := k }).offWire
  exact compareWord_counted _ _ _ _ ((congrArg (·.cfg.verifyMaxErr) hw).trans hm)
    ((congrArg State.errCount hw).trans_le h)

theorem strideProgress_cfg (lo hi n k : Nat) (s : State) : (strideProgress lo hi n k s).cfg = s.cfg := by
  unfold strideProgress
  split_ifs <;> rfl

theorem strideProgress_errCount (lo hi n k : Nat) (s : State) : (strideProgress lo hi n k s).errCount = s.errCount := by
  unfold strideProgress
  split_ifs <;> rfl

theorem verifyWords_counted {m : Nat} (base len : Word) (n l k : Nat) (s : State) (hm : s.cfg.verifyMaxErr = m)
    (h : s.errCount ≤ m) : (verifyWords base len n l k s).counted m := by
  induction l generalizing k s with
  | zero => exact ⟨hm, h⟩
  | succ l ih =>
    refine Res.counted_andThen (verifyImageWord_counted base len k s hm h) fun t ht hc => ih _ _ ?_ ?_
    · rw [strideProgress_cfg]; exact ht
    · rw [strideProgress_errCount]; exact hc

theorem verifyEnd_counted {m : Nat} (s : State) (hm : s.cfg.verifyMaxErr = m) (h : s.errCount ≤ m) :
    (verifyEnd s).counted m := by
  simp only [verifyEnd]
  split_ifs
  · exact ⟨hm, h⟩
  · exact ⟨hm, Nat.le_succ_of_le h⟩

/-- A verify starts from no mismatch (44_flash.md R260). -/
theorem flashVerify_counted (base len : Word) (s : State) : (flashVerify base len s).counted s.cfg.verifyMaxErr :=
  Res.counted_andThen (verifyWords_counted base len _ _ 0 _ rfl (Nat.zero_le _)) verifyEnd_counted

/-- `REG.err_count` stays in its range. -/
structure KeepsCount (s t : State) : Prop where
  limit : t.cfg.verifyMaxErr = s.cfg.verifyMaxErr
  count : s.errCount ≤ s.cfg.verifyMaxErr + 1 → t.errCount ≤ t.cfg.verifyMaxErr + 1

/-- A change of state that leaves the parameters and the count alone. -/
theorem KeepsCount.silent {s t : State} (hc : t.cfg = s.cfg) (he : t.errCount = s.errCount) : KeepsCount s t :=
  ⟨congrArg _ hc, by rw [hc, he]; exact id⟩

theorem walk_keepsCount : Walk KeepsCount where
  refl _ := .silent rfl rfl
  trans h₁ h₂ := ⟨h₂.limit.trans h₁.limit, h₂.count ∘ h₁.count⟩
  wire h := .silent h.cfg (congrArg State.errCount h.offWire :)

theorem KeepsCount.linkInit (s : State) : KeepsCount s (linkInit s).st :=
  walk_keepsCount.linkInit (fun s => hwResetPulse_eq_play s ▸ .silent rfl rfl) (fun _ => .silent rfl rfl)
    (fun _ => .silent rfl rfl) s

theorem KeepsCount.deviceParameters (s : State) : KeepsCount s (deviceParameters s) := by
  unfold Machine.deviceParameters
  split_ifs <;> exact .silent rfl rfl

theorem KeepsCount.apConfig (s : State) : KeepsCount s (apConfig s).st :=
  walk_keepsCount.apConfig (fun _ => .silent rfl rfl) (fun _ => .silent rfl rfl) KeepsCount.deviceParameters s

theorem KeepsCount.flashErase (base len : Word) (s : State) : KeepsCount s (flashErase base len s).st :=
  walk_keepsCount.flashErase (fun _ _ => .silent rfl rfl) (fun _ _ => .silent rfl rfl) base len s

theorem KeepsCount.flashWrite (base len : Word) (s : State) : KeepsCount s (flashWrite base len s).st :=
  walk_keepsCount.flashWrite (fun _ _ => .silent rfl rfl) (fun _ _ => .silent rfl rfl) (fun _ _ _ => .silent rfl rfl)
    base len s

theorem KeepsCount.flashVerify (base len : Word) (s : State) : KeepsCount s (flashVerify base len s).st := by
  obtain ⟨hm, hc⟩ := Res.counted_st (flashVerify_counted base len s)
  exact ⟨hm, fun _ => hm.symm ▸ hc⟩

theorem KeepsCount.endRun (r : Res) : KeepsCount r.st (endRun r) := by
  cases r <;> exact .silent rfl rfl

theorem KeepsCount.run (s : State) : KeepsCount s (run s) := by
  unfold Machine.run
  split_ifs
  · exact .silent rfl rfl
  · have hstart : KeepsCount s (startRun s) := .silent rfl rfl
    have hsteps := walk_keepsCount.runSteps KeepsCount.linkInit KeepsCount.apConfig (fun _ _ => .silent rfl rfl)
      (KeepsCount.flashErase s.argAddr s.argLen) (KeepsCount.flashWrite _ _) (KeepsCount.flashVerify _ _) (startRun s)
    exact walk_keepsCount.trans hstart (walk_keepsCount.trans hsteps (.endRun _))

theorem commands_keepsCount : Commands KeepsCount where
  toWalk := walk_keepsCount
  pulse _ _ _ := .silent rfl rfl
  linkInit := .linkInit
  apConfig := .apConfig
  erase s := .flashErase _ _ s
  write s := .flashWrite _ _ s
  verify s := .flashVerify _ _ s
  result _ _ _ _ := .silent rfl rfl
  run := .run
  trigger _ _ _ _ _ := .silent rfl rfl

/-- The counter drawn outside the flash commands lies in its range (log 9). -/
theorem scrambleCounters_errCount_le (s : State) : (scrambleCounters s).errCount ≤ s.cfg.verifyMaxErr + 1 :=
  Nat.le_of_lt_succ (Nat.mod_lt _ (Nat.succ_pos _))

/-- When a command ends the counter is the one it left for the reader, or a drawn one. -/
theorem endCommand_errCount_le {s : State} (h : s.errCount ≤ s.cfg.verifyMaxErr + 1) :
    (endCommand s).errCount ≤ s.cfg.verifyMaxErr + 1 := by
  simp only [endCommand]
  split_ifs
  · exact h
  · exact scrambleCounters_errCount_le s

/-! ### The idle block. -/

/-- A fault recorded beside none but its own is the only one. -/
theorem recorded_alone {f : Fault} {fs : List Fault} (h : fs = [] ∨ fs = [f]) : recorded f fs = [f] := by
  obtain rfl | rfl := h <;> simp [recorded]

/-- A whole command keeps what holds between commands, whichever it is: it starts from a drawn counter, and its events
leave SWCLK high and nRESET released where they find them so. -/
theorem IdleInv.of_command {s u : State} {i : Instr} (hs : IdleInv s) (h : exec i (beginCommand i s) = .next u) :
    IdleInv (endCommand u) := by
  obtain ⟨hv, hrun, -, hclk, hrst, hprog, -, hfault⟩ := hs
  have hr := commands_reaches.of_exec h
  have hcfg : u.cfg = s.cfg := hr.cfg
  obtain ⟨evs, kclk, -, -, krst, -, -, -, -, eclk, erst⟩ := hr.events
  simp only [beginCommand_fields, hclk, hrst, eclk, erst] at kclk krst
  have krun : u.runActive = false := commands_runActive.of_exec h hrun
  have kprog : u.progress ≤ 100 := hr.prog hv hprog
  have kcount := (commands_keepsCount.of_exec h).count (scrambleCounters_errCount_le s)
  have kfault : u.faults = [] ∨ u.faults = [.imageShort] := by
    obtain hk | hk := hr.fault.1
    · exact hfault.imp hk.trans hk.trans
    · exact .inr (hk.trans (recorded_alone hfault))
  have kv : u.cfg.valid = true := by rw [hcfg]; exact hv
  exact ⟨kv, krun, rfl, kclk, krst, kprog, endCommand_errCount_le kcount, kfault⟩

end Sys2Proof.Machine
end

section
/-!
SUPPORT. The progress of a run: setting it never goes back, phase by phase (44_flash.md R240 to R264).
-/

namespace Sys2Proof.Machine

/-! ### Progress that climbs. -/

/-- From `s` to `t` the parameters stay and the progress climbs: the values notified do not decrease, lie between the
progress before and after, and the last of them is the progress after. -/
structure Climbs (s t : State) : Prop where
  cfg : t.cfg = s.cfg
  le : s.progress ≤ t.progress
  notes : ∃ l, t.note = s.note ++ l ∧ (progressOf l).Pairwise (· ≤ ·)
    ∧ (∀ p ∈ progressOf l, s.progress ≤ p ∧ p ≤ t.progress) ∧ t.progress = (progressOf l).getLastD s.progress

theorem Climbs.trans {s t u : State} (h₁ : Climbs s t) (h₂ : Climbs t u) : Climbs s u := by
  obtain ⟨xcfg, xle, xs, hxs, xsorted, xbounds, xlast⟩ := h₁
  obtain ⟨ycfg, yle, ys, hys, ysorted, ybounds, ylast⟩ := h₂
  refine ⟨ycfg.trans xcfg, xle.trans yle, xs ++ ys, by rw [hys, hxs, List.append_assoc], ?_⟩
  rw [progressOf_append]
  refine ⟨?_, fun p hp => ?_, ?_⟩
  · exact List.pairwise_append.2 ⟨xsorted, ysorted, fun p hp q hq => (xbounds p hp).2.trans (ybounds q hq).1⟩
  · obtain hp | hp := List.mem_append.1 hp
    · exact ⟨(xbounds p hp).1, (xbounds p hp).2.trans yle⟩
    · exact ⟨xle.trans (ybounds p hp).1, (ybounds p hp).2⟩
  · rw [ylast, xlast]
    simp [List.getLastD_eq_getLast?, List.getLast?_append, Option.getD_or]

/-- Setting the progress to a value that is not below the present one. -/
theorem Climbs.setProgress {p : Nat} {s : State} (h : s.progress ≤ p) : Climbs s (setProgress p s) := by
  refine ⟨rfl, h, progressNotes s.progress [p], setProgress_note p s, ?_⟩
  simp only [progressNotes, setProgress_fields]
  split_ifs with he
  · simp [progressOf, he]
  · simpa [progressOf] using h

/-- Climbing to `hi` at most. -/
structure ClimbsTo (hi : Nat) (s t : State) : Prop extends Climbs s t where
  cap : t.progress ≤ hi

theorem ClimbsTo.trans {mid hi : Nat} {s t u : State} (h₁ : ClimbsTo mid s t)
    (h₂ : t.cfg = s.cfg → t.progress ≤ mid → ClimbsTo hi t u) : ClimbsTo hi s u :=
  have h := h₂ h₁.cfg h₁.cap
  ⟨h₁.toClimbs.trans h.toClimbs, h.cap⟩

theorem ClimbsTo.andThen {mid hi : Nat} {s : State} {r : Res} {f : State → Res} (h₁ : ClimbsTo mid s r.st)
    (hm : mid ≤ hi) (h₂ : ∀ t, t.cfg = s.cfg → t.progress ≤ mid → ClimbsTo hi t (f t).st) :
    ClimbsTo hi s (r.andThen f).st := by
  cases r with
  | ok t => exact h₁.trans (h₂ t)
  | raised e t => exact ⟨h₁.toClimbs, h₁.cap.trans hm⟩

theorem ClimbsTo.setStatus {hi : Nat} (v : Status) {s : State} (h : s.progress ≤ hi) : ClimbsTo hi s (setStatus v s) :=
  ⟨⟨rfl, le_rfl, [.status v], rfl, .nil, by simp [progressOf], rfl⟩, h⟩

theorem ClimbsTo.setProgress {p : Nat} {s : State} (h : s.progress ≤ p) : ClimbsTo p s (setProgress p s) :=
  ⟨.setProgress h, le_rfl⟩

/-! ### Parts that leave the progress alone. -/

/-- The parameters, the progress and the notifications. -/
def State.progressPart (s : State) : Params × Nat × List Note := (s.cfg, s.progress, s.note)

theorem walk_progressPart : Walk fun s t => t.progressPart = s.progressPart :=
  .keeps State.progressPart fun h => (congrArg State.progressPart h.offWire :)

/-- Where the progress and the notifications stay, nothing climbs. -/
theorem ClimbsTo.steady {hi : Nat} {s t : State} (h : t.progressPart = s.progressPart) (hs : s.progress ≤ hi) :
    ClimbsTo hi s t := by
  simp only [State.progressPart, Prod.mk.injEq] at h
  obtain ⟨hcfg, hprog, hnote⟩ := h
  exact ⟨⟨hcfg, hprog.ge, [], by simp [hnote], .nil, by simp [progressOf], hprog⟩, hprog.trans_le hs⟩

/-- A transaction, or several, leave the progress alone. -/
theorem ClimbsTo.wire {hi : Nat} {s t : State} (h : OnWire s t) (hs : s.progress ≤ hi) : ClimbsTo hi s t :=
  .steady (walk_progressPart.wire h) hs

theorem deviceParameters_progressPart (s : State) : (deviceParameters s).progressPart = s.progressPart := by
  unfold deviceParameters
  split_ifs <;> rfl

theorem compareWord_progressPart (len : Word) (k : Nat) (w : Word) (s : State) :
    (compareWord len k w s).st.progressPart = s.progressPart := by
  unfold compareWord
  split_ifs <;> rfl

theorem linkInit_progressPart (s : State) : (linkInit s).st.progressPart = s.progressPart :=
  walk_progressPart.linkInit (fun s => hwResetPulse_eq_play s ▸ rfl) (fun _ => rfl) (fun _ => rfl) s

theorem apConfig_progressPart (s : State) : (apConfig s).st.progressPart = s.progressPart :=
  walk_progressPart.apConfig (fun _ => rfl) (fun _ => rfl) deviceParameters_progressPart s

theorem writeImageWord_progressPart (base len : Word) (k : Nat) (s : State) :
    (writeImageWord base len k s).st.progressPart = s.progressPart :=
  walk_progressPart.writeImageWord (fun _ _ => rfl) (fun _ _ _ => rfl) base len k s

theorem verifyImageWord_progressPart (base len : Word) (k : Nat) (s : State) :
    (verifyImageWord base len k s).st.progressPart = s.progressPart := by
  have hread := walk_progressPart.wire (OnWire.memRead (wordAddr base k) { s with index := k })
  exact (compareWord_progressPart _ _ _ _).trans hread

/-! ### The loops of the flash commands. -/

/-- The progress after `k` of `n` words, in the phase from `lo` to `hi`. -/
def phaseProgress (lo hi n k : Nat) : Nat := lo + (hi - lo) * k / n

theorem phaseProgress_zero (lo hi n : Nat) : phaseProgress lo hi n 0 = lo := by simp [phaseProgress]

theorem phaseProgress_le_succ (lo hi n k : Nat) : phaseProgress lo hi n k ≤ phaseProgress lo hi n (k + 1) :=
  Nat.add_le_add_left (Nat.div_le_div_right (Nat.mul_le_mul_left _ k.le_succ)) lo

theorem phaseProgress_le {lo hi n k : Nat} (h : lo ≤ hi) (hk : k ≤ n) : phaseProgress lo hi n k ≤ hi := by
  cases k with
  | zero => rw [phaseProgress_zero]; exact h
  | succ k => exact Reaches.wordProgress_le h hk

/-- The progress update after word `k`. -/
theorem strideProgress_climbs {lo hi n k : Nat} {s : State} (h : s.progress ≤ phaseProgress lo hi n k) :
    ClimbsTo (phaseProgress lo hi n (k + 1)) s (strideProgress lo hi n k s) := by
  have hn := h.trans (phaseProgress_le_succ lo hi n k)
  unfold strideProgress
  split_ifs
  · exact .setProgress hn
  · exact .steady rfl hn

theorem erasePages_climbs {cfg : Params} (base : Word) {pages n i : Nat} {s : State} (hc : s.cfg = cfg)
    (hn : i + n ≤ pages) (h : s.progress ≤ phaseProgress 0 cfg.pEraseEnd pages i) :
    ClimbsTo cfg.pEraseEnd s (erasePages base pages n i s).st := by
  have hcap := phaseProgress_le (Nat.zero_le cfg.pEraseEnd) (by omega : i ≤ pages)
  induction n generalizing i s with
  | zero => exact .steady rfl (h.trans hcap)
  | succ n ih =>
    have hpage := walk_progressPart.wire (OnWire.pageErase (pageAddr s.cfg base i) { s with index := i })
    refine ClimbsTo.andThen (.steady hpage h) hcap fun t ht hp => ?_
    have hnext : t.cfg.pEraseEnd * (i + 1) / pages = phaseProgress 0 cfg.pEraseEnd pages (i + 1) := by
      rw [ht, hc]; simp [phaseProgress]
    rw [hnext]
    exact (ClimbsTo.setProgress (hp.trans (phaseProgress_le_succ _ _ _ _))).trans fun _ hq =>
      ih (ht.trans hc) (by omega) hq (phaseProgress_le (Nat.zero_le _) (by omega))

theorem writeWords_climbs {cfg : Params} (hv : cfg.valid = true) (base len : Word) {n m k : Nat} {s : State}
    (hc : s.cfg = cfg) (hn : k + m ≤ n) (h : s.progress ≤ phaseProgress cfg.pEraseEnd cfg.pWriteEnd n k) :
    ClimbsTo cfg.pWriteEnd s (writeWords base len n m k s).st := by
  have hcap := phaseProgress_le (Reaches.bounds_of_valid hv).1 (by omega : k ≤ n)
  induction m generalizing k s with
  | zero => exact .steady rfl (h.trans hcap)
  | succ m ih =>
    refine ClimbsTo.andThen (.steady (writeImageWord_progressPart base len k s) h) hcap fun t ht hp => ?_
    rw [ht, hc]
    exact (strideProgress_climbs hp).trans fun hu hq =>
      ih (hu.trans (ht.trans hc)) (by omega) hq (phaseProgress_le (Reaches.bounds_of_valid hv).1 (by omega))

theorem verifyWords_climbs {cfg : Params} (hv : cfg.valid = true) (base len : Word) {n m k : Nat} {s : State}
    (hc : s.cfg = cfg) (hn : k + m ≤ n) (h : s.progress ≤ phaseProgress cfg.pWriteEnd cfg.pVerifyEnd n k) :
    ClimbsTo cfg.pVerifyEnd s (verifyWords base len n m k s).st := by
  have hcap := phaseProgress_le (Reaches.bounds_of_valid hv).2.1 (by omega : k ≤ n)
  induction m generalizing k s with
  | zero => exact .steady rfl (h.trans hcap)
  | succ m ih =>
    refine ClimbsTo.andThen (.steady (verifyImageWord_progressPart base len k s) h) hcap fun t ht hp => ?_
    rw [ht, hc]
    exact (strideProgress_climbs hp).trans fun hu hq =>
      ih (hu.trans (ht.trans hc)) (by omega) hq (phaseProgress_le (Reaches.bounds_of_valid hv).2.1 (by omega))

/-! ### The phases of a run. -/

theorem flashErase_climbs {cfg : Params} (base len : Word) {s : State} (hc : s.cfg = cfg) (h : s.progress ≤ 0) :
    ClimbsTo cfg.pEraseEnd s (flashErase base len s).st := by
  refine ClimbsTo.andThen (mid := cfg.pEraseEnd) ?_ le_rfl fun t ht hp => ?_
  · split_ifs
    · exact .wire (.massErase s) (h.trans (Nat.zero_le _))
    · exact erasePages_climbs base hc (by omega) (h.trans (Nat.zero_le _))
  · rw [ht, hc]; exact .setProgress hp

theorem flashWrite_climbs {cfg : Params} (hv : cfg.valid = true) (base len : Word) {s : State} (hc : s.cfg = cfg)
    (h : s.progress ≤ cfg.pEraseEnd) : ClimbsTo cfg.pWriteEnd s (flashWrite base len s).st := by
  have hb := (Reaches.bounds_of_valid hv).1
  have hstart : ClimbsTo cfg.pEraseEnd s (startWrite s) := by
    rw [startWrite, hc]
    exact (ClimbsTo.setProgress h).trans fun _ hp => .steady rfl hp
  refine ClimbsTo.andThen (hstart.trans fun _ hp => .wire (.memWriteOr _ _ _ _) hp) hb fun t ht hp => ?_
  refine ClimbsTo.andThen (writeWords_climbs hv base len (ht.trans hc) (by omega) ?_) le_rfl fun u hu hq => ?_
  · rw [phaseProgress_zero]; exact hp
  · rw [hu, ht, hc]; exact .setProgress hq

theorem verifyEnd_climbs {cfg : Params} {s : State} (hc : s.cfg = cfg) (h : s.progress ≤ cfg.pVerifyEnd) :
    ClimbsTo cfg.pVerifyEnd s (verifyEnd s).st := by
  subst hc
  have hdata : ClimbsTo s.cfg.pVerifyEnd s { s with resData := BitVec.ofNat 32 s.errCount } := .steady rfl h
  simp only [verifyEnd]
  split_ifs
  · exact hdata.trans fun _ hp => .setProgress hp
  · exact hdata

theorem flashVerify_climbs {cfg : Params} (hv : cfg.valid = true) (base len : Word) {s : State} (hc : s.cfg = cfg)
    (h : s.progress ≤ cfg.pWriteEnd) : ClimbsTo cfg.pVerifyEnd s (flashVerify base len s).st := by
  subst hc
  have hzero : ClimbsTo s.cfg.pWriteEnd s { s with errCount := 0 } := .steady rfl h
  have hstart := hzero.trans fun _ hp => .setProgress hp
  refine ClimbsTo.andThen (hstart.trans fun hu hp => ?_) le_rfl fun t ht hp => verifyEnd_climbs ht hp
  refine verifyWords_climbs hv base len hu (by omega) ?_
  rw [phaseProgress_zero]; exact hp

/-- The components of a run, from no progress on (45_status_orchestrator.md R300). -/
theorem runSteps_climbs {cfg : Params} (hv : cfg.valid = true) (base len : Word) {s : State} (hc : s.cfg = cfg)
    (h : s.progress ≤ 0) : ClimbsTo cfg.pVerifyEnd s (runSteps base len s).st := by
  obtain ⟨hwrite, hverify, -⟩ := Reaches.bounds_of_valid hv
  refine ClimbsTo.andThen (.steady (linkInit_progressPart s) h) (Nat.zero_le _) fun a ha pa => ?_
  refine ClimbsTo.andThen (.wire (.powerUp a) pa) (Nat.zero_le _) fun b hb pb => ?_
  refine ClimbsTo.andThen (.steady (apConfig_progressPart b) pb) (Nat.zero_le _) fun c hc' pc => ?_
  refine ClimbsTo.andThen (.wire (.cpuHalt c) pc) (Nat.zero_le _) fun d hd pd => ?_
  have hcfg : d.cfg = cfg := by rw [hd, hc', hb, ha, hc]
  refine ClimbsTo.andThen ((ClimbsTo.setStatus .programming pd).trans fun _ => flashErase_climbs base len hcfg)
    (hwrite.trans hverify) fun e he pe => ?_
  refine ClimbsTo.andThen (flashWrite_climbs hv base len (he.trans hcfg) pe) hverify fun f hf pf => ?_
  refine ClimbsTo.andThen ((ClimbsTo.setStatus .verifying pf).trans fun _ =>
    flashVerify_climbs hv base len (hf.trans (he.trans hcfg))) le_rfl fun g _ pg => ?_
  exact .wire (.cpuReset g) pg

/-- The end of a run notifies a status and leaves the progress. -/
theorem endRun_note (r : Res) :
    (endRun r).progress = r.st.progress ∧ ∃ v, (endRun r).note = r.st.note ++ [.status v] := by
  cases r <;> exact ⟨rfl, _, rfl⟩

end Sys2Proof.Machine
end

section
/-!
PROOFS. The statements about the state: reset, the step, the frames and the invariants.
-/

namespace Sys2Proof.Machine

/-- Settles O7, field by field. -/
theorem resetIsAsListed : Obligations.ResetIsAsListed :=
  ⟨rfl, rfl, rfl, rfl, rfl, rfl, rfl, rfl, rfl, rfl, rfl, rfl, rfl, rfl, rfl, rfl, rfl, rfl⟩

/-- Settles O14: the history is empty, no session exists and no target is attached. -/
theorem resetMeetsTheInvariants : Obligations.ResetMeetsTheInvariants := by
  unfold Obligations.ResetMeetsTheInvariants
  refine ⟨⟨rfl, rfl, rfl, rfl, rfl, rfl⟩, ?_, ?_, ?_⟩
  · exact ⟨reference_valid, rfl, rfl, rfl, rfl, Nat.zero_le _, Nat.zero_le _, .inl rfl⟩
  · intro x hx; cases hx
  · intro r hr; cases hr

/-- Settles O8. -/
theorem stepRunsTheDecodedInstruction : Obligations.StepRunsTheDecodedInstruction := by
  unfold Obligations.StepRunsTheDecodedInstruction
  intro s w rest i hv hh hd
  exact step_of_command hv hh hd

/-- Settles O16: every instruction reaches its next state. -/
theorem everyInstructionKeepsTheHostSideAndExtendsTheHistory :
    Obligations.EveryInstructionKeepsTheHostSideAndExtendsTheHistory := by
  unfold Obligations.EveryInstructionKeepsTheHostSideAndExtendsTheHistory
  intro i s t h
  have hr := commands_reaches.of_exec h
  exact ⟨hr.host, hr.history, hr.fault⟩

/-- Settles O10: a command begins with `REG.step = 0`, and the count grows by one for each event. -/
theorem stepCountsTheEventsOfTheCommand : Obligations.StepCountsTheEventsOfTheCommand := by
  unfold Obligations.StepCountsTheEventsOfTheCommand
  intro s t w rest i hh hd h
  obtain ⟨hn, -⟩ | ⟨w', rest', e, hh', he, -⟩ | ⟨w', rest', i', u, -, -, hu, rfl⟩ := step_cases h
  · cases hh.symm.trans hn
  · cases hh.symm.trans hh'
    cases hd.symm.trans he
  · obtain ⟨evs, hev, hstep, -⟩ := (commands_reaches.of_exec hu).history
    exact ⟨rfl, evs, hev, hstep.trans (Nat.zero_add _)⟩

/-- Settles O17: the run state is off the report. -/
theorem standaloneCommandsLeaveTheRunStateAlone : Obligations.StandaloneCommandsLeaveTheRunStateAlone := by
  unfold Obligations.StandaloneCommandsLeaveTheRunStateAlone
  intro i s t hr ht hp h
  have hf := components_offReport.of_exec_standalone hr ht hp h
  exact ⟨(congrArg State.status hf :), (congrArg State.lastError hf :), runActive_of_offReport hf,
    (congrArg State.led hf :), (congrArg State.ledLastMs hf :), (congrArg State.pressPending hf :),
    (congrArg State.pressMs hf :)⟩

/-- Settles O56: the progress starts at 0 and climbs through the phases, to `P_VERIFY_END` at most. -/
theorem runProgressNeverDecreases : Obligations.RunProgressNeverDecreases := by
  unfold Obligations.RunProgressNeverDecreases
  intro s t hv hr h
  have ht : t = endRun (runSteps s.argAddr s.argLen (startRun s)) := by
    cases h
    rw [run, if_neg (by simp [hr])]
  have hsteps := runSteps_climbs hv s.argAddr s.argLen (s := startRun s) rfl le_rfl
  obtain ⟨l, hl, hsorted, hbounds, hlast⟩ := hsteps.notes
  obtain ⟨hend, v, hnote⟩ := endRun_note (runSteps s.argAddr s.argLen (startRun s))
  have hp : progressOf (.status .initializing :: l ++ [.status v]) = progressOf l := by simp [progressOf]
  refine ⟨.status .initializing :: l ++ [.status v], ?_, ?_, ?_, ?_⟩
  · rw [ht, hnote, hl]; simp [startRun]
  · rw [hp]; exact hsorted
  · intro p hm
    rw [hp] at hm
    exact (hbounds p hm).2.trans (hsteps.cap.trans (Reaches.percent_of_valid hv).2.2)
  · rw [hp, ht, hend]; exact hlast

/-- Settles O11: the host's write, the beginning and the end of a command touch neither the lines nor `EV`, and what the
instruction does to the lines follows the events it appends. -/
theorem everyStepKeepsTheHistoryInvariant : Obligations.EveryStepKeepsTheHistoryInvariant := by
  unfold Obligations.EveryStepKeepsTheHistoryInvariant
  intro s t hs h
  obtain ⟨-, rfl⟩ | ⟨w, rest, e, -, -, rfl⟩ | ⟨w, rest, i, u, -, -, hu, rfl⟩ := step_cases h
  · exact hs
  · exact hs
  · have hb : HistoryInv (beginCommand i (acceptHostWrite w rest s)) := hs
    have hq : HistoryInv u := hb.of_reaches (commands_reaches.of_exec hu)
    exact hq

/-- Settles O12: waiting and refusing change nothing of what holds between commands, and a whole command keeps it. -/
theorem everyStepKeepsTheIdleInvariant : Obligations.EveryStepKeepsTheIdleInvariant := by
  unfold Obligations.EveryStepKeepsTheIdleInvariant
  intro s t hs h
  obtain ⟨-, rfl⟩ | ⟨w, rest, e, -, -, rfl⟩ | ⟨w, rest, i, u, -, -, hu, rfl⟩ := step_cases h
  · exact hs
  · exact hs
  · have ha : IdleInv (acceptHostWrite w rest s) := hs
    exact ha.of_command hu

end Sys2Proof.Machine
end

section
/-!
PROOFS. The statements about memory: what every step keeps of the sessions and of an attached reference target's memory.
-/

namespace Sys2Proof.Machine

/-- The sessions' device parameters and the canonical form of an attached reference target's memory (20_memory.md R76,
R80), as one invariant. -/
def MemoryInv (s : State) : Prop := SessionInv s ∧ TargetMemoryInv s

/-- It speaks of the parameters, the session and the target alone. -/
theorem MemoryInv.of_unchanged {s t : State} (hs : MemoryInv s) (hc : t.cfg = s.cfg) (hx : t.session = s.session)
    (hr : t.target = s.target) : MemoryInv t := by
  simpa only [MemoryInv, SessionInv, TargetMemoryInv, hc, hx, hr] using hs

/-- Whatever part of a command is run, it is kept. -/
theorem MemoryInv.of_reaches {len : Nat} {s t : State} (hs : MemoryInv s) (h : Reaches len s t) : MemoryInv t :=
  hs.imp h.sess h.mem

/-- The start and the end of a command leave the parameters, the session and the target alone, and what runs in between
keeps it. -/
theorem MemoryInv.of_command {s u : State} {i : Instr} (hs : MemoryInv s) (h : exec i (beginCommand i s) = .next u) :
    MemoryInv (endCommand u) := by
  have hb : MemoryInv (beginCommand i s) := hs.of_unchanged rfl rfl rfl
  have hu : MemoryInv u := hb.of_reaches (commands_reaches.of_exec h)
  exact hu.of_unchanged rfl rfl rfl

/-- Settles O13: waiting and refusing touch neither the session nor the target, and a whole command keeps both parts. -/
theorem everyStepKeepsTheSessionAndTheTargetMemory : Obligations.EveryStepKeepsTheSessionAndTheTargetMemory := by
  unfold Obligations.EveryStepKeepsTheSessionAndTheTargetMemory
  intro s t hsess hmem h
  have hs : MemoryInv s := ⟨hsess, hmem⟩
  obtain ⟨-, rfl⟩ | ⟨w, rest, e, -, -, rfl⟩ | ⟨w, rest, i, u, -, -, hu, rfl⟩ := step_cases h
  · exact hs
  · exact hs.of_unchanged rfl rfl rfl
  · have ha : MemoryInv (acceptHostWrite w rest s) := hs.of_unchanged rfl rfl rfl
    exact ha.of_command hu

/-! ### A state the statement speaks of. -/

/-- A block with a configured session and an attached reference target that holds a word, and a `MEM_WRITE` of another
word pending. -/
def configuredBlock : State :=
  { State.reset with
    session := some { Session.fresh with
      mscBase := some Params.reference.mscBase, pageSize := some Params.reference.pageSize }
    target := some {
      idcode := 0, ctrlstat := 0, select := 0, csw := 0, tar := 0, idr := 0, mem := [(0x20000004, 5)], wren := false
      addrb := 0, wdata := 0, latched := 0, flashSize := 0x100000, inject := [] }
    host := [{ frame := .cmd 0x0041, addr := some 0x20000000, data := some 0xDEADBEEF }] }

theorem configuredBlock_memoryInv : MemoryInv configuredBlock := by
  constructor
  · intro x hx; cases hx
    exact ⟨rfl, .inr rfl, .inr rfl⟩
  · intro r hr; cases hr
    rfl

/-- The premises of O13 hold together, with a session and a target present. -/
theorem configuredBlock_step : ∃ t, step configuredBlock = .next t ∧ SessionInv t ∧ TargetMemoryInv t := by
  have hd : decode (.cmd 0x0041) = .ok .memWrite := by decide
  have hstep : step configuredBlock = _ := step_of_command reference_valid rfl hd
  exact ⟨_, hstep, everyStepKeepsTheSessionAndTheTargetMemory _ _ configuredBlock_memoryInv.1
    configuredBlock_memoryInv.2 hstep⟩

end Sys2Proof.Machine
end

section
/-!
SUPPORT. Laws of the decoder: the rows of the two tables exclude each other, so a frame decodes to what the row it
matches builds; what the rows fix and leave free; and the operand bits of a command word.
-/

namespace Sys2Proof

/-! ### The rows a command word matches. -/

/-- No word matches two rows: any two differ at a bit that both fix (30_encoding.md R102). -/
theorem cmdRows_pairwise_exclusive :
    cmdRows.Pairwise fun r t => r.pattern &&& t.mask ≠ t.pattern &&& r.mask := by decide

/-- The patterns of two rows that one word matches agree at the bits that both rows fix. -/
theorem patterns_agree_of_matches {w m p m' p' : BitVec 16} (h : w &&& m = p) (h' : w &&& m' = p') :
    p &&& m' = p' &&& m := by
  rw [← h, ← h', BitVec.and_assoc, BitVec.and_assoc, BitVec.and_comm m m']

/-- Among rows that exclude each other, the search finds the row that the word matches, wherever it stands. -/
theorem find?_eq_of_exclusive {rows : List CmdRow} {r : CmdRow} {w : BitVec 16}
    (hp : rows.Pairwise fun r t => r.pattern &&& t.mask ≠ t.pattern &&& r.mask) (hr : r ∈ rows)
    (h : w &&& r.mask = r.pattern) : rows.find? (fun t => w &&& t.mask == t.pattern) = some r := by
  induction hp with
  | nil => cases hr
  | @cons t rows ht _ ih =>
    rcases List.mem_cons.1 hr with rfl | hr
    · exact List.find?_cons_of_pos (by simpa using h)
    · have hne : w &&& t.mask ≠ t.pattern := fun h' => ht r hr (patterns_agree_of_matches h' h)
      rw [List.find?_cons_of_neg (by simpa using hne), ih hr]

/-- A command word decodes to what the row it matches builds from it (30_encoding.md R102). -/
theorem decode_cmd_eq_ok_iff (w : BitVec 16) (i : Instr) :
    decode (.cmd w) = .ok i ↔ ∃ r ∈ cmdRows, w &&& r.mask = r.pattern ∧ r.build w = i := by
  constructor
  · intro h
    simp only [decode, decodeCmd] at h
    split at h
    next r hr => exact ⟨r, List.mem_of_find?_eq_some hr, by simpa using List.find?_some hr, by simpa using h⟩
    next => cases h
  · rintro ⟨r, hr, hm, rfl⟩
    simp only [decode, decodeCmd, find?_eq_of_exclusive cmdRows_pairwise_exclusive hr hm]

/-! ### The rows with operands, and the exact ones. -/

/-- The row of `WRITE_BIT`, which leaves `B` free (30_encoding.md R101). -/
def writeBitRow : CmdRow := ⟨0xFEFF, 0x0002, fun w => .writeBit (w.getLsbD 8)⟩

/-- The row of `XFER`, which leaves `B`, `A` and `P` free (30_encoding.md R101). -/
def xferRow : CmdRow :=
  ⟨0xF0FF, 0x0020, fun w => .xfer (portOfBit (w.getLsbD 11)) (w.getLsbD 8) (w.extractLsb' 9 2)⟩

theorem writeBitRow_mem : writeBitRow ∈ cmdRows := by simp [cmdRows, cmdRowsLow, writeBitRow]

theorem xferRow_mem : xferRow ∈ cmdRows := by simp [cmdRows, cmdRowsLow, xferRow]

/-- Every row but those two fixes all 16 bits. -/
theorem cmdRows_cases {r : CmdRow} (hr : r ∈ cmdRows) : r = writeBitRow ∨ r = xferRow ∨ r.mask = 0xFFFF := by
  revert r
  simp [cmdRows, cmdRowsLow, cmdRowsHigh, writeBitRow, xferRow]

/-- A row that fixes all 16 bits is matched by its pattern alone. -/
theorem matches_iff_of_exact {r : CmdRow} (h : r.mask = 0xFFFF) (w : BitVec 16) :
    w &&& r.mask = r.pattern ↔ w = r.pattern := by
  rw [h, show (0xFFFF : BitVec 16) = BitVec.allOnes 16 from rfl, BitVec.and_allOnes]

/-- The words of the rows that fix all 16 bits: by evaluation, the 23 words of R101 without operands. -/
def exactWords : List (BitVec 16) := (cmdRows.filter fun r => r.mask = 0xFFFF).map CmdRow.pattern

/-- The words that some row matches (30_encoding.md R102). -/
theorem matches_some_row_iff (w : BitVec 16) :
    (∃ r ∈ cmdRows, w &&& r.mask = r.pattern) ↔
      w &&& 0xF0FF = 0x0020 ∨ w &&& 0xFEFF = 0x0002 ∨ w ∈ exactWords := by
  constructor
  · rintro ⟨r, hr, h⟩
    obtain rfl | rfl | he := cmdRows_cases hr
    · exact .inr (.inl h)
    · exact .inl h
    · exact .inr (.inr (List.mem_map.2 ⟨r, by simp [hr, he], ((matches_iff_of_exact he w).1 h).symm⟩))
  · rintro (h | h | h)
    · exact ⟨xferRow, xferRow_mem, h⟩
    · exact ⟨writeBitRow, writeBitRow_mem, h⟩
    · obtain ⟨r, hr, rfl⟩ := List.mem_map.1 h
      obtain ⟨hr, he⟩ := List.mem_filter.1 hr
      exact ⟨r, hr, (matches_iff_of_exact (by simpa using he) _).2 rfl⟩

/-! ### The operand bits of a command word. -/

@[simp] theorem portOfBit_bitOfPort (port : Port) : portOfBit (bitOfPort port) = port := by cases port <;> rfl

@[simp] theorem bitOfPort_portOfBit (b : Bool) : bitOfPort (portOfBit b) = b := by cases b <;> rfl

/-- The encoding of `WRITE_BIT` matches its row, and its bit 8 is the operand (30_encoding.md R100, R101). -/
theorem writeBit_word_fields : ∀ b : Bool,
    (0x0002 ||| bitAt b 8) &&& 0xFEFF = 0x0002#16 ∧ (0x0002 ||| bitAt b 8).getLsbD 8 = b := by decide

/-- The encoding of `XFER` matches its row, and its bits 8, [10:9] and 11 are the operands (30_encoding.md R100,
R101). -/
theorem xfer_word_fields : ∀ (p rnw : Bool) (a : BitVec 2),
    let w : BitVec 16 :=
      0x0020 ||| bitAt rnw 8 ||| bitAt (a.getLsbD 0) 9 ||| bitAt (a.getLsbD 1) 10 ||| bitAt p 11
    w &&& 0xF0FF = 0x0020 ∧ w.getLsbD 11 = p ∧ w.getLsbD 8 = rnw ∧ w.extractLsb' 9 2 = a := by
  decide

/-- A bit of a word, put back at its position, is the word with all other bits cleared. -/
theorem bitAt_getLsbD (w : BitVec 16) (n : Nat) : bitAt (w.getLsbD n) n = w &&& bitAt true n := by
  rw [show bitAt true n = BitVec.twoPow 16 n from rfl, BitVec.and_twoPow]
  cases w.getLsbD n <;> simp [bitAt, BitVec.twoPow]

/-- Where `WRITE_BIT`'s row is matched, the operand bit is all that the pattern leaves out. -/
theorem writeBit_word_of_matches {w : BitVec 16} (h : w &&& 0xFEFF = 0x0002) :
    0x0002 ||| bitAt (w.getLsbD 8) 8 = w := by
  calc
    0x0002 ||| bitAt (w.getLsbD 8) 8
    _ = w &&& 0xFEFF ||| w &&& bitAt true 8 := by rw [bitAt_getLsbD, h]
    _ = w &&& (0xFEFF ||| bitAt true 8) := by rw [BitVec.and_or_distrib_left]
    _ = w := BitVec.and_allOnes

/-- Where `XFER`'s row is matched, the operand bits are all that the pattern leaves out. -/
theorem xfer_word_of_matches {w : BitVec 16} (h : w &&& 0xF0FF = 0x0020) :
    0x0020 ||| bitAt (w.getLsbD 8) 8 ||| bitAt (w.getLsbD 9) 9 ||| bitAt (w.getLsbD 10) 10 ||| bitAt (w.getLsbD 11) 11
      = w := by
  calc
    _ = w &&& (0xF0FF ||| bitAt true 8 ||| bitAt true 9 ||| bitAt true 10 ||| bitAt true 11) := by
      simp only [bitAt_getLsbD, ← h, BitVec.and_or_distrib_left]
    _ = w := BitVec.and_allOnes

/-! ### The request headers. -/

/-- A header byte decodes to the instruction of the row whose pattern it is (30_encoding.md R90, R92). -/
theorem headerRow_of_decode {w : BitVec 8} {i : Instr} (h : decode (.header w) = .ok i) :
    ∃ r ∈ headerRows, w = r.pattern ∧ r.instr = i := by
  simp only [decode, decodeHeader] at h
  split at h
  next r hr => exact ⟨r, List.mem_of_find?_eq_some hr, by simpa using List.find?_some hr, by simpa using h⟩
  next => cases h

/-! ### Encoding what was decoded, and the reverse. -/

/-- The encoding of the instruction of a row that fixes all 16 bits is the row's pattern. -/
theorem encode_exact_row : ∀ r ∈ cmdRows, r.mask = 0xFFFF → encode (r.build r.pattern) = .cmd r.pattern := by
  decide

/-- The encoding of what a row builds from a word that matches it is the word. -/
theorem encode_build_of_matches {r : CmdRow} (hr : r ∈ cmdRows) {w : BitVec 16} (h : w &&& r.mask = r.pattern) :
    encode (r.build w) = .cmd w := by
  obtain rfl | rfl | he := cmdRows_cases hr
  · exact congrArg Frame.cmd (writeBit_word_of_matches h)
  · have hx := xfer_word_of_matches h
    simpa [encode, xferRow] using hx
  · rw [(matches_iff_of_exact he w).1 h]
    exact encode_exact_row r hr he

/-- The encoding of a header row's instruction is the row's pattern. -/
theorem encode_header_row : ∀ r ∈ headerRows, encode r.instr = .header r.pattern := by decide

/-- A frame that decodes is the encoding of its instruction (30_encoding.md R102). -/
theorem encode_of_decode {f : Frame} {i : Instr} (h : decode f = .ok i) : encode i = f := by
  cases f with
  | cmd w =>
    obtain ⟨r, hr, hm, rfl⟩ := (decode_cmd_eq_ok_iff w i).1 h
    exact encode_build_of_matches hr hm
  | header w =>
    obtain ⟨r, hr, rfl, rfl⟩ := headerRow_of_decode h
    exact encode_header_row r hr

/-- `WRITE_BIT`'s word decodes to `WRITE_BIT` with the same operand. -/
theorem decode_encode_writeBit (b : Bool) : decode (encode (.writeBit b)) = .ok (.writeBit b) := by
  obtain ⟨hm, hb⟩ := writeBit_word_fields b
  exact (decode_cmd_eq_ok_iff _ _).2 ⟨writeBitRow, writeBitRow_mem, hm, congrArg Instr.writeBit hb⟩

/-- `XFER`'s word decodes to `XFER` with the same three operands. -/
theorem decode_encode_xfer (port : Port) (rnw : Bool) (a : BitVec 2) :
    decode (encode (.xfer port rnw a)) = .ok (.xfer port rnw a) := by
  obtain ⟨hm, hp, hb, ha⟩ := xfer_word_fields (bitOfPort port) rnw a
  refine (decode_cmd_eq_ok_iff _ _).2 ⟨xferRow, xferRow_mem, hm, ?_⟩
  simp only [xferRow, hp, hb, ha, portOfBit_bitOfPort]

/-- Decoding an instruction's encoding gives the instruction back; the instructions without operands are single words
of the tables (30_encoding.md R90, R92, R101). -/
theorem decode_encode (i : Instr) : decode (encode i) = .ok i := by
  cases i with
  | writeBit b => exact decode_encode_writeBit b
  | xfer port rnw a => exact decode_encode_xfer port rnw a
  | _ => rfl

end Sys2Proof
end

section
/-!
SUPPORT. Laws of the request headers as instructions: the row's byte, the last bit sent, the request parity.
-/

namespace Sys2Proof.Machine

/-- A header row's frame is the byte of the header's bits in wire order (30_encoding.md R90, R92). -/
theorem encode_of_headerOf {i : Instr} {f : ReqFormat} {port : Port} {rnw : Bool} {a : BitVec 2}
    (h : headerOf i = some (f, port, rnw, a)) :
    encode i = .header (BitVec.ofNat 8 (natOfBits (headerBits f port rnw a))) := by
  cases i <;> cases h <;> rfl

/-- The last bit of a header is the park bit, 1 (30_encoding.md R90, R92). -/
theorem headerBits_getLastD (f : ReqFormat) (port : Port) (rnw : Bool) (a : BitVec 2) (v : Bool) :
    (headerBits f port rnw a).getLastD v = true := by cases f <;> rfl

@[simp] theorem headerBits_ne_nil (f : ReqFormat) (port : Port) (rnw : Bool) (a : BitVec 2) :
    headerBits f port rnw a ≠ [] := by cases f <;> simp [headerBits]

theorem bitOfPort_eq_decide (port : Port) : bitOfPort port = decide (port = .ap) := by cases port <;> rfl

/-- Sending a header leaves the request parity that its format computes (30_encoding.md R91). -/
@[simp] theorem sendHeader_reqParity (f : ReqFormat) (port : Port) (rnw : Bool) (a : BitVec 2) (s : State) :
    (sendHeader f port rnw a s).reqParity = requestParity f port rnw a := by rw [sendHeader_eq]

/-- Sending a header: its bits as events, the lines as the park bit leaves them, the request parity, and nothing else
(30_encoding.md R90 to R92). -/
theorem sendHeader_eq_fields (f : ReqFormat) (port : Port) (rnw : Bool) (a : BitVec 2) (s : State) :
    sendHeader f port rnw a s = { s with
      reqParity := requestParity f port rnw a
      dioDir := .output, dioOut := true, swclk := true
      timeUs := s.timeUs + 2 * (headerBits f port rnw a).length * s.cfg.tHalfUs
      evRev := (writeBitsEv s.cfg.tHalfUs (headerBits f port rnw a)).reverse ++ s.evRev
      stepCount := s.stepCount + 6 * (headerBits f port rnw a).length } := by
  simp only [sendHeader_eq, play, clkAfter_writeBitsEv, dioAfter_writeBitsEv, dirAfter_writeBitsEv,
    rstAfter_writeBitsEv, delayOf_writeBitsEv, writeBitsEv_length, headerBits_getLastD, headerBits_ne_nil, if_false]

/-- A step on a frame that does not decode: the host's write is accepted and the word refused (30_encoding.md R103). -/
theorem step_of_no_command {s : State} {h : HostWrite} {rest : List HostWrite} {e : DecodeError}
    (hv : s.cfg.valid = true) (hh : s.host = h :: rest) (hd : decode h.frame = .error e) :
    step s = .next (refuseWord (acceptHostWrite h rest s)) := by
  simp [step, hv, hh, hd]

end Sys2Proof.Machine
end

section
/-!
PROOFS. The statements about the encoding.
-/

namespace Sys2Proof.Machine

/-- Settles O1: the operands are read back from the bits they were put at, and no other row takes the word. -/
theorem decodeOfEncodeIsTheInstruction : Obligations.DecodeOfEncodeIsTheInstruction := by
  unfold Obligations.DecodeOfEncodeIsTheInstruction
  intro i _
  exact decode_encode i

/-- Settles O2: the frame is its row's pattern with the operand bits put back. -/
theorem encodeOfDecodeIsTheFrame : Obligations.EncodeOfDecodeIsTheFrame := by
  unfold Obligations.EncodeOfDecodeIsTheFrame
  intro f i h
  exact encode_of_decode h

/-- Settles O3: a word decodes exactly when it matches a row, and the rows are the two with operands and the exact
words. -/
theorem wordsThatAreNoCommandAreRefused : Obligations.WordsThatAreNoCommandAreRefused := by
  unfold Obligations.WordsThatAreNoCommandAreRefused
  constructor
  · intro w
    calc
      (∃ i, decode (.cmd w) = .ok i)
      _ ↔ ∃ r ∈ cmdRows, w &&& r.mask = r.pattern := by simp [decode_cmd_eq_ok_iff]
      _ ↔ _ := matches_some_row_iff w
  · intro s h rest e hv hh hd
    exact step_of_no_command hv hh hd

/-- Settles O26: a header row sends its header in a block of its format and is refused in one of the other. -/
theorem headersSendTheirBits : Obligations.HeadersSendTheirBits := by
  unfold Obligations.HeadersSendTheirBits
  intro i f port rnw a s h
  rw [exec_of_headerOf h, headerFrame]
  constructor
  · intro hf
    rw [if_pos hf, sendHeader_eq_fields]
  · intro hf
    rw [if_neg hf, refuseWord]

/-- Settles O4: each word is the encoding of the instruction named. -/
theorem wordsOfTheSpecDecode : Obligations.WordsOfTheSpecDecode :=
  ⟨decode_encode .clkCycle, decode_encode (.writeBit true), decode_encode (.xfer .dp true 0),
    decode_encode (.xfer .ap false 3), decode_encode .linkInit, decode_encode .memWrite, decode_encode .flashVerify,
    decode_encode .run, decode_encode .reqDoc7R3, decode_encode .reqAdiv5ApW1⟩

/-- Settles O5: sending the bits leaves the parity computed before them, and `apndp` is 1 for the AP alone. -/
theorem requestParityOfEachFormat : Obligations.RequestParityOfEachFormat := by
  unfold Obligations.RequestParityOfEachFormat
  intro s port rnw a
  constructor
  · rw [sendHeader_reqParity, requestParity]
  · rw [sendHeader_reqParity, requestParity, bitOfPort_eq_decide]

/-- Settles O6, row by row, the length by format. -/
theorem headerRowsAreTheHeadersSent : Obligations.HeaderRowsAreTheHeadersSent := by
  unfold Obligations.HeaderRowsAreTheHeadersSent
  intro i f port rnw a h
  exact ⟨encode_of_headerOf h, headerBits_length f port rnw a⟩

end Sys2Proof.Machine
end

section
/-!
SUPPORT. The transport's operations as whole next states: the lines, the time and the history as their events leave
them, and nothing else.
-/

namespace Sys2Proof.Machine

/-- Writing at least one bit: the line is left an output at the last bit, SWCLK 1. -/
theorem writeBits_eq_fields {bs : List Bool} (hne : bs ≠ []) (s : State) :
    writeBits bs s = { s with
      dioDir := .output, dioOut := bs.getLastD s.dioOut, swclk := true
      timeUs := s.timeUs + 2 * bs.length * s.cfg.tHalfUs
      evRev := (writeBitsEv s.cfg.tHalfUs bs).reverse ++ s.evRev
      stepCount := s.stepCount + 6 * bs.length } := by
  simp only [writeBits_eq_play, play, clkAfter_writeBitsEv, dioAfter_writeBitsEv, dirAfter_writeBitsEv,
    rstAfter_writeBitsEv, delayOf_writeBitsEv, writeBitsEv_length, hne, if_false]

/-- The last bit of a word on the wire is its highest. -/
theorem bitsOf_getLastD {n : Nat} (v : BitVec (n + 1)) (d : Bool) : (bitsOf v).getLastD d = v.getLsbD n := by
  rw [bitsOf, bitsOfNat_succ, List.getLastD_concat, BitVec.testBit_toNat]

theorem bitsOf_ne_nil {n : Nat} (v : BitVec (n + 1)) : bitsOf v ≠ [] :=
  List.ne_nil_of_length_pos (by simp)

/-- Playing at least one read's events: the line is left an input, SWCLK 1. -/
theorem play_readBitsEv_eq_fields {bs : List Bool} (hne : bs ≠ []) (s : State) :
    play (readBitsEv s.cfg.tHalfUs bs) s = { s with
      dioDir := .input, swclk := true
      timeUs := s.timeUs + 2 * bs.length * s.cfg.tHalfUs
      evRev := (readBitsEv s.cfg.tHalfUs bs).reverse ++ s.evRev
      stepCount := s.stepCount + 6 * bs.length } := by
  simp only [play, clkAfter_readBitsEv, dioAfter_readBitsEv, dirAfter_readBitsEv, rstAfter_readBitsEv,
    delayOf_readBitsEv, readBitsEv_length, hne, if_false]

/-- One clock cycle (40_transport.md R120). -/
theorem clockCycle_eq_fields (s : State) :
    clockCycle s = { s with
      swclk := true
      timeUs := s.timeUs + 2 * s.cfg.tHalfUs
      evRev := (cycleEv s.cfg.tHalfUs).reverse ++ s.evRev
      stepCount := s.stepCount + 4 } := by
  have hd : delayOf (cycleEv s.cfg.tHalfUs) = 2 * s.cfg.tHalfUs := by
    simp [cycleEv, delayOf, two_mul]
  rw [clockCycle_eq_play, play, hd]
  rfl

/-- Driving a level for `n` cycles (40_transport.md R126). -/
theorem drive_eq_fields (v : Bool) (n : Nat) (s : State) :
    drive v n s = { s with
      dioDir := .output, dioOut := v, swclk := if n = 0 then s.swclk else true
      timeUs := s.timeUs + 2 * n * s.cfg.tHalfUs
      evRev := (driveEv s.cfg.tHalfUs v n).reverse ++ s.evRev
      stepCount := s.stepCount + (2 + 4 * n) } := by
  have hlen : (driveEv s.cfg.tHalfUs v n).length = 2 + 4 * n := by
    rw [driveEv, List.length_append, cyclesEv_length]
    rfl
  rw [drive_eq_play, play, hlen]
  simp [driveEv, clkAfter, dioAfter, dirAfter, rstAfter, delayOf]

/-- One read: SWDIO is left an input, SWCLK 1, and one answer is taken (40_transport.md R122). -/
theorem readBit_eq_fields (s : State) :
    readBit s = (readBitAnswer s, { s with
      dioDir := .input, swclk := true
      timeUs := s.timeUs + 2 * s.cfg.tHalfUs
      evRev := (readBitEv s.cfg.tHalfUs (readBitAnswer s)).reverse ++ s.evRev
      stepCount := s.stepCount + 6
      answers := s.answers.tail }) := by
  have hp : play (readBitEv s.cfg.tHalfUs (readBitAnswer s)) s = _ :=
    play_readBitsEv_eq_fields (List.cons_ne_nil (readBitAnswer s) []) s
  rw [readBit_eq_play, hp]
  rfl

/-- A bit zero-extended to a word. -/
theorem ofBool_setWidth_eq_ite (b : Bool) : (BitVec.ofBool b).setWidth 32 = if b then (1 : Word) else 0 := by
  cases b <;> rfl

/-- `READ_BIT` puts the target's answer, zero-extended, in `RES_DATA` (40_transport.md R122). -/
theorem exec_readBit (s : State) :
    exec .readBit s = .next { (readBit s).2 with resData := if (readBit s).1 then 1 else 0 } := by
  rw [← ofBool_setWidth_eq_ite]
  rfl

/-- `READ_WORD` puts the word read in `RES_DATA` (40_transport.md R124). -/
theorem exec_readWord (s : State) : exec .readWord s = .next { (readWord s).2 with resData := (readWord s).1 } := rfl

/-- A word read is assembled from 32 samples, the scripted answers first (40_transport.md R124). -/
theorem readWord_spec (s : State) :
    ∃ bs : List Bool, bs.length = 32 ∧ bs.take s.answers.length = s.answers.take 32 ∧
      readWord s = (ofBits 32 bs, { play (readBitsEv s.cfg.tHalfUs bs) s with answers := s.answers.drop 32 }) := by
  obtain ⟨bs, hlen, htake, hbs⟩ := readBits_spec 32 s
  exact ⟨bs, hlen, htake, by rw [readWord, hbs]⟩

end Sys2Proof.Machine
end

section
/-!
PROOFS. The statements about the bit and word transport.
-/

namespace Sys2Proof.Machine

/-- Settles O23: the bits written are the word's, so the last one is bit 31. -/
theorem writeWordDrivesItsBitsInOrder : Obligations.WriteWordDrivesItsBitsInOrder := by
  unfold Obligations.WriteWordDrivesItsBitsInOrder
  refine ⟨decode_encode .writeWord, fun s => ?_⟩
  have h : writeWord s.argData s = _ := writeBits_eq_fields (bitsOf_ne_nil s.argData) s
  rw [bitsOf_getLastD, bitsOf_length, bitsOf_eq_getLsbD] at h
  exact congrArg Host.Outcome.next h

/-- Settles O24: the word is assembled from the samples, and a script of a word's bits is read as that word. -/
theorem readWordAssemblesItsSamples : Obligations.ReadWordAssemblesItsSamples := by
  unfold Obligations.ReadWordAssemblesItsSamples
  refine ⟨decode_encode .readWord, fun s => ?_, fun s w h => ?_⟩
  · obtain ⟨bs, hlen, htake, hread⟩ := readWord_spec s
    have hne : bs ≠ [] := List.ne_nil_of_length_pos (by omega)
    refine ⟨bs, ofBits 32 bs, hlen, htake, fun i hi => (ofBits_getLsbD 32 bs i hi).symm, ?_⟩
    rw [exec_readWord, hread, play_readBitsEv_eq_fields hne, hlen]
  · have hs : s.answers = bitsOf w ++ [] := by rw [h, bitsOf_eq_getLsbD, List.append_nil]
    exact ⟨_, exec_readWord s, by rw [readWord_script w [] s hs]⟩

/-- Settles O25: the two line events, then the cycles. -/
theorem driveHoldsALevelForItsCycles : Obligations.DriveHoldsALevelForItsCycles := by
  unfold Obligations.DriveHoldsALevelForItsCycles
  intro v n s
  exact ⟨drive_eq_fields v n s, rfl⟩

/-- Settles O20: one clock cycle's events. -/
theorem clkCycleIsOneClockPeriod : Obligations.ClkCycleIsOneClockPeriod := by
  unfold Obligations.ClkCycleIsOneClockPeriod
  exact ⟨decode_encode .clkCycle, fun s => congrArg Host.Outcome.next (clockCycle_eq_fields s)⟩

/-- Settles O21: `WRITE_BIT` is a write of the one-bit list. -/
theorem writeBitDrivesOneBit : Obligations.WriteBitDrivesOneBit := by
  unfold Obligations.WriteBitDrivesOneBit
  intro b
  exact ⟨decode_encode (.writeBit b), fun s =>
    congrArg Host.Outcome.next (writeBits_eq_fields (List.cons_ne_nil b []) s)⟩

/-- Settles O22: a read of one bit, answered at the sample. -/
theorem readBitSamplesOneBit : Obligations.ReadBitSamplesOneBit := by
  unfold Obligations.ReadBitSamplesOneBit
  refine ⟨decode_encode .readBit, fun s v hv => ?_⟩
  have ha : readBitAnswer s = v := hv.symm
  rw [exec_readBit, readBit_eq_fields, ha]
  rfl

end Sys2Proof.Machine
end

section
/-!
SUPPORT. What each component command may write off the wire: a relation for each list of registers, kept by transactions
and by the command's own updates (42_link_power_ap_cpu.md, 43_memory_access.md, 44_flash.md).
-/

namespace Sys2Proof.Machine

/-- Off the wire, `t` is `s` with some registers written over by their values in `t`; `put t` writes them. -/
def WritesOnly (put : State → State → State) (s t : State) : Prop := t.offWire = put t s.offWire

/-- Writing a state's own registers changes nothing (`own`), and later values replace earlier ones (`later`). -/
theorem walk_writesOnly {put : State → State → State} (own : ∀ t, put t t.offWire = t.offWire)
    (later : ∀ t u x, put u (put t x) = put u x) : Walk (WritesOnly put) where
  refl s := (own s).symm
  trans {s t u} h₁ h₂ :=
    calc u.offWire
      _ = put u t.offWire := h₂
      _ = put u (put t s.offWire) := by rw [h₁]
      _ = put u s.offWire := later t u _
  wire {s t} h :=
    calc t.offWire
      _ = put t t.offWire := (own t).symm
      _ = put t s.offWire := by rw [h.offWire]

/-- The report of a component that can fail writes `RES_KIND` alone. -/
theorem Walk.report {R : State → State → Prop} (w : Walk R) (kind : ∀ k s, R s { s with resKind := k })
    {s : State} {r : Res} (h : R s r.st) : R s (report r) := by
  cases r with
  | ok t => exact w.trans h (kind .ok t)
  | raised e t => exact w.trans h (kind (.error e) t)

/-! ### The registers each command writes. -/

/-- `POWER_UP`, `CPU_HALT`, `CPU_RESET`, `MEM_WRITE`, `MASS_ERASE`, `PAGE_ERASE`. -/
def putKind (t x : State) : State := { x with resKind := t.resKind }

/-- `MEM_READ`. -/
def putData (t x : State) : State := { x with resData := t.resData, resKind := t.resKind }

/-- `XFER`. -/
def putXfer (t x : State) : State := { x with resAck := t.resAck, resData := t.resData, resKind := t.resKind }

/-- `LINK_INIT`. -/
def putLink (t x : State) : State :=
  { x with nreset := t.nreset, session := t.session, resData := t.resData, resKind := t.resKind }

/-- `AP_CONFIG`. -/
def putPort (t x : State) : State := { x with session := t.session, resData := t.resData, resKind := t.resKind }

/-- `FLASH_ERASE`. -/
def putErase (t x : State) : State :=
  { x with index := t.index, progress := t.progress, note := t.note, resKind := t.resKind }

/-- `FLASH_WRITE`. -/
def putWrite (t x : State) : State :=
  { x with index := t.index, progress := t.progress, note := t.note, resKind := t.resKind, faults := t.faults }

/-- `FLASH_VERIFY`. -/
def putVerify (t x : State) : State :=
  { x with
    index := t.index, errCount := t.errCount, progress := t.progress, note := t.note
    resData := t.resData, resKind := t.resKind, faults := t.faults }

theorem walk_putKind : Walk (WritesOnly putKind) := walk_writesOnly (fun _ => rfl) fun _ _ _ => rfl
theorem walk_putData : Walk (WritesOnly putData) := walk_writesOnly (fun _ => rfl) fun _ _ _ => rfl
theorem walk_putXfer : Walk (WritesOnly putXfer) := walk_writesOnly (fun _ => rfl) fun _ _ _ => rfl
theorem walk_putLink : Walk (WritesOnly putLink) := walk_writesOnly (fun _ => rfl) fun _ _ _ => rfl
theorem walk_putPort : Walk (WritesOnly putPort) := walk_writesOnly (fun _ => rfl) fun _ _ _ => rfl
theorem walk_putErase : Walk (WritesOnly putErase) := walk_writesOnly (fun _ => rfl) fun _ _ _ => rfl
theorem walk_putWrite : Walk (WritesOnly putWrite) := walk_writesOnly (fun _ => rfl) fun _ _ _ => rfl
theorem walk_putVerify : Walk (WritesOnly putVerify) := walk_writesOnly (fun _ => rfl) fun _ _ _ => rfl

/-! ### The commands. -/

theorem xfer_writesOnly (port : Port) (rnw : Bool) (a : BitVec 2) (v : Word) (s : State) :
    WritesOnly putXfer s (xferResults rnw (xfer port rnw a v s)) :=
  walk_putXfer.trans (walk_putXfer.wire (.xfer port rnw a v s)) rfl

theorem memRead_writesOnly (addr : Word) (k : ResKind) (s : State) :
    WritesOnly putData s { (memRead addr s).st with resData := (memRead addr s).word, resKind := k } :=
  walk_putData.trans (walk_putData.wire (.memRead addr s)) rfl

theorem memWrite_writesOnly (addr data : Word) (k : ResKind) (s : State) :
    WritesOnly putKind s { (memWrite addr data s).2 with resKind := k } :=
  walk_putKind.trans (walk_putKind.wire (.memWrite addr data s)) rfl

/-- A component made of transactions and delays alone. -/
theorem report_writesOnly {s : State} {r : Res} (h : OnWire s r.st) : WritesOnly putKind s (report r) :=
  walk_putKind.report (fun _ _ => rfl) (walk_putKind.wire h)

theorem linkInit_writesOnly (s : State) : WritesOnly putLink s (report (linkInit s)) :=
  walk_putLink.report (fun _ _ => rfl) <|
    walk_putLink.linkInit (fun s => hwResetPulse_eq_play s ▸ rfl) (fun _ => rfl) (fun _ => rfl) s

theorem deviceParameters_writesOnly (s : State) : WritesOnly putPort s (deviceParameters s) := by
  unfold deviceParameters
  split_ifs <;> rfl

theorem apConfig_writesOnly (s : State) : WritesOnly putPort s (report (apConfig s)) :=
  walk_putPort.report (fun _ _ => rfl) <|
    walk_putPort.apConfig (fun _ => rfl) (fun _ => rfl) deviceParameters_writesOnly s

theorem flashErase_writesOnly (base len : Word) (s : State) : WritesOnly putErase s (report (flashErase base len s)) :=
  walk_putErase.report (fun _ _ => rfl) <| walk_putErase.flashErase (fun _ _ => rfl) (fun _ _ => rfl) base len s

theorem flashWrite_writesOnly (base len : Word) (s : State) : WritesOnly putWrite s (report (flashWrite base len s)) :=
  walk_putWrite.report (fun _ _ => rfl) <|
    walk_putWrite.flashWrite (fun _ _ => rfl) (fun _ _ => rfl) (fun _ _ _ => rfl) base len s

theorem compareWord_writesOnly (len : Word) (k : Nat) (w : Word) (s : State) :
    WritesOnly putVerify s (compareWord len k w s).st := by
  unfold compareWord
  split_ifs <;> rfl

theorem verifyEnd_writesOnly (s : State) : WritesOnly putVerify s (verifyEnd s).st := by
  simp only [verifyEnd]
  split_ifs <;> rfl

theorem flashVerify_writesOnly (base len : Word) (s : State) :
    WritesOnly putVerify s (report (flashVerify base len s)) :=
  walk_putVerify.report (fun _ _ => rfl) <|
    walk_putVerify.flashVerify (fun _ _ => rfl) (fun _ _ => rfl) (fun _ _ _ => rfl) compareWord_writesOnly
      (fun _ => rfl) verifyEnd_writesOnly base len s

end Sys2Proof.Machine
end

section
/-!
SUPPORT. `XFER` on a script: the results it reports of a transaction, and the attempts that are answered with `ACK_WAIT`
(41_transaction.md R140 to R145).
-/

namespace Sys2Proof.Machine

theorem exec_xfer (port : Port) (rnw : Bool) (a : BitVec 2) (s : State) :
    exec (.xfer port rnw a) s = .next (xferResults rnw (xfer port rnw a s.argData s)) := rfl

/-! ### The results reported. -/

/-- An acknowledged read fails only where its parity bit is checked and wrong (R143). -/
theorem xferOk_read_iff {t : State} (h : t.ack = t.cfg.ackOk) :
    xferOk true t = true ↔ ¬(t.cfg.rdataParity = .check ∧ t.rparity ≠ evenParity t.rdata) := by
  simp [xferOk, h, imp_iff_not_or]

/-- An acknowledged read: the word, and `NACK` where the parity fails it. -/
theorem xferResults_read {t : State} (h : t.ack = t.cfg.ackOk) :
    xferResults true t = { t with
      resAck := t.cfg.ackOk, resData := t.rdata
      resKind := if t.cfg.rdataParity = .check ∧ t.rparity ≠ evenParity t.rdata then .nack else .ok } := by
  have hd : (true && t.ack == t.cfg.ackOk) = true := by simp [h]
  rw [xferResults, if_pos hd, if_congr (xferOk_read_iff h) rfl rfl, ite_not, h]

/-- An acknowledged write. -/
theorem xferResults_write {t : State} (h : t.ack = t.cfg.ackOk) :
    xferResults false t = { t with resAck := t.cfg.ackOk, resKind := .ok } := by
  rw [xferResults, xferOk_write h, h]
  rfl

/-- A transaction that is not acknowledged leaves `RES_DATA` (R145). -/
theorem xferResults_of_ack_ne {rnw : Bool} {t : State} (h : t.ack ≠ t.cfg.ackOk) :
    xferResults rnw t = { t with resAck := t.ack, resKind := .nack } := by
  have hd : (rnw && t.ack == t.cfg.ackOk) = false := by simp [h]
  rw [xferResults, xferOk_of_ack_ne h, hd]
  rfl

/-! ### Attempts on a script. -/

/-- What an attempt that takes the ACK `k` and no word leaves. -/
def afterAck (port : Port) (rnw : Bool) (a : BitVec 2) (evs : List PinEvent) (rest : List Bool) (k : BitVec 3)
    (s : State) : State :=
  { play evs s with answers := rest, reqParity := requestParity s.cfg.reqFormat port rnw a, ack := k }

@[simp] theorem afterAck_ev (port : Port) (rnw : Bool) (a : BitVec 2) (evs : List PinEvent) (rest : List Bool)
    (k : BitVec 3) (s : State) : (afterAck port rnw a evs rest k s).ev = s.ev ++ evs := play_ev evs s

theorem xfer_failing_script (port : Port) (rnw : Bool) (a : BitVec 2) (v : Word) (k : BitVec 3) (rest : List Bool)
    (s : State) (ht : s.target = none) (hk : failingAck s.cfg k = true) (h : s.answers = bitsOf k ++ rest) :
    xfer port rnw a v s = afterAck port rnw a (notOkEv s.cfg port rnw a k) rest k s := by
  have hs := targetSees_none port rnw a v s ht
  rw [xfer_failing port rnw a v k rest s hk (by rw [hs, h]), hs]
  rfl

theorem attempt_notOk_script (port : Port) (rnw : Bool) (a : BitVec 2) (v : Word) (k : BitVec 3) (rest : List Bool)
    (s : State) (ht : s.target = none) (hk : k ≠ s.cfg.ackOk) (h : s.answers = bitsOf k ++ rest) :
    attempt port rnw a v s = afterAck port rnw a (notOkEv s.cfg port rnw a k) rest k s := by
  have hs := targetSees_none port rnw a v s ht
  rw [attempt_notOk port rnw a v k rest s hk (by rw [hs, h]), hs]
  rfl

theorem attempt_write_script (port : Port) (a : BitVec 2) (v : Word) (rest : List Bool) (s : State)
    (ht : s.target = none) (h : s.answers = okAcks s.cfg 1 ++ rest) :
    attempt port false a v s = afterWrite port a (writeOkEv s.cfg port a v) rest s.cfg.ackOk s := by
  have hs := targetSees_none port false a v s ht
  rw [attempt_write port a v rest s (by rw [hs, h]; simp [okAcks]), hs]
  rfl

theorem attempt_read_script (port : Port) (a : BitVec 2) (v w : Word) (p : Bool) (rest : List Bool) (s : State)
    (ht : s.target = none) (h : s.answers = okRead s.cfg w p ++ rest) :
    attempt port true a v s = afterRead port a (readOkEv s.cfg port a w p) rest w p s := by
  have hs := targetSees_none port true a v s ht
  rw [attempt_read port a v w p rest s (by rw [hs, h]), hs]
  rfl

/-! ### Attempts answered with `ACK_WAIT` (R142). -/

/-- A first attempt and up to `n` more; with `WAIT_RETRIES` it is a whole transaction. -/
def attempts (port : Port) (rnw : Bool) (a : BitVec 2) (v : Word) (n : Nat) (s : State) : State :=
  retryWait port rnw a v n (attempt port rnw a v s)

theorem xfer_eq_attempts (port : Port) (rnw : Bool) (a : BitVec 2) (v : Word) (s : State) :
    xfer port rnw a v s = attempts port rnw a v s.cfg.waitRetries s := rfl

/-- Where the next attempt is not answered with WAIT it is the last. -/
theorem attempts_of_not_wait {port : Port} {rnw : Bool} {a : BitVec 2} {v : Word} {n : Nat} {s : State}
    (h : (attempt port rnw a v s).ack ≠ (attempt port rnw a v s).cfg.ackWait) :
    attempts port rnw a v n s = attempt port rnw a v s := retryWait_of_not_wait _ _ _ _ _ _ h

/-- Where it is answered with WAIT one of the further attempts is made. -/
theorem attempts_of_wait {port : Port} {rnw : Bool} {a : BitVec 2} {v : Word} {n : Nat} {s : State}
    (h : (attempt port rnw a v s).ack = (attempt port rnw a v s).cfg.ackWait) :
    attempts port rnw a v (n + 1) s = attempts port rnw a v n (attempt port rnw a v s) := by
  rw [attempts, retryWait, if_pos h]
  rfl

/-- `u` is `s` after `m` attempts answered with `ACK_WAIT`, the answers `rest` left. -/
structure Waited (port : Port) (rnw : Bool) (a : BitVec 2) (m : Nat) (rest : List Bool) (s u : State) : Prop where
  cfg : u.cfg = s.cfg
  target : u.target = none
  answers : u.answers = rest
  ev : u.ev = s.ev ++ (List.replicate m (notOkEv s.cfg port rnw a s.cfg.ackWait)).flatten

theorem attempt_waited (port : Port) (rnw : Bool) (a : BitVec 2) (v : Word) {rest : List Bool} {s : State}
    (ht : s.target = none) (hd : s.cfg.ackOk ≠ s.cfg.ackWait) (h : s.answers = bitsOf s.cfg.ackWait ++ rest) :
    (attempt port rnw a v s).ack = s.cfg.ackWait ∧ Waited port rnw a 1 rest s (attempt port rnw a v s) := by
  rw [attempt_notOk_script port rnw a v s.cfg.ackWait rest s ht hd.symm h]
  exact ⟨rfl, rfl, ht, rfl, by simp⟩

theorem Waited.succ {port : Port} {rnw : Bool} {a : BitVec 2} {m : Nat} {r rest : List Bool} {s t u : State}
    (h₁ : Waited port rnw a 1 r s t) (h₂ : Waited port rnw a m rest t u) : Waited port rnw a (m + 1) rest s u where
  cfg := h₂.cfg.trans h₁.cfg
  target := h₂.target
  answers := h₂.answers
  ev := by rw [h₂.ev, h₁.ev, h₁.cfg, List.append_assoc, ← List.flatten_append, List.replicate_append_replicate,
    Nat.add_comm 1 m]

/-- Each WAIT answer uses up one of the further attempts. -/
theorem attempts_waited (port : Port) (rnw : Bool) (a : BitVec 2) (v : Word) {m n : Nat} {rest : List Bool} {s : State}
    (ht : s.target = none) (hd : s.cfg.ackOk ≠ s.cfg.ackWait) (hm : m ≤ n)
    (h : s.answers = (List.replicate m (bitsOf s.cfg.ackWait)).flatten ++ rest) :
    ∃ u, Waited port rnw a m rest s u ∧ attempts port rnw a v n s = attempts port rnw a v (n - m) u := by
  induction m generalizing n s with
  | zero => exact ⟨s, ⟨rfl, ht, h, by simp⟩, rfl⟩
  | succ m ih =>
    obtain ⟨n, rfl⟩ : ∃ k, n = k + 1 := ⟨n - 1, by omega⟩
    rw [List.replicate_succ, List.flatten_cons, List.append_assoc] at h
    obtain ⟨hack, h₁⟩ := attempt_waited port rnw a v ht hd h
    rw [attempts_of_wait (by rw [hack, h₁.cfg]), Nat.add_sub_add_right]
    obtain ⟨u, h₂, hu⟩ := ih h₁.target (by rw [h₁.cfg]; exact hd) (by omega : m ≤ n)
      (by rw [h₁.cfg]; exact h₁.answers)
    exact ⟨u, h₁.succ h₂, hu⟩

/-- After the waits one more attempt ends the transaction, where it is not answered with WAIT or no further one is
left. -/
theorem xfer_waited (port : Port) (rnw : Bool) (a : BitVec 2) (v : Word) {m : Nat} {rest : List Bool} {s : State}
    (ht : s.target = none) (hd : s.cfg.ackOk ≠ s.cfg.ackWait) (hm : m ≤ s.cfg.waitRetries)
    (h : s.answers = (List.replicate m (bitsOf s.cfg.ackWait)).flatten ++ rest)
    (hlast : ∀ u, Waited port rnw a m rest s u →
      (attempt port rnw a v u).ack ≠ (attempt port rnw a v u).cfg.ackWait ∨ m = s.cfg.waitRetries) :
    ∃ u, Waited port rnw a m rest s u ∧ xfer port rnw a v s = attempt port rnw a v u := by
  obtain ⟨u, hw, hu⟩ := attempts_waited port rnw a v ht hd hm h
  refine ⟨u, hw, ?_⟩
  rw [xfer_eq_attempts, hu]
  obtain hne | hmax := hlast u hw
  · exact attempts_of_not_wait hne
  · rw [← hmax, Nat.sub_self]; rfl

/-- A write that is acknowledged after some WAIT answers. -/
theorem xfer_write_waited (port : Port) (a : BitVec 2) (v : Word) {m : Nat} {rest : List Bool} {s : State}
    (ht : s.target = none) (hd : s.cfg.ackOk ≠ s.cfg.ackWait) (hm : m ≤ s.cfg.waitRetries)
    (h : s.answers = (List.replicate m (bitsOf s.cfg.ackWait)).flatten ++ (okAcks s.cfg 1 ++ rest)) :
    ∃ u, Waited port false a m (okAcks s.cfg 1 ++ rest) s u
      ∧ xfer port false a v s = afterWrite port a (writeOkEv u.cfg port a v) rest u.cfg.ackOk u := by
  have hatt : ∀ u, Waited port false a m (okAcks s.cfg 1 ++ rest) s u →
      attempt port false a v u = afterWrite port a (writeOkEv u.cfg port a v) rest u.cfg.ackOk u := fun u hw =>
    attempt_write_script port a v rest u hw.target (by rw [hw.answers, hw.cfg])
  obtain ⟨u, hw, hu⟩ := xfer_waited port false a v ht hd hm h fun u hw =>
    .inl (by rw [hatt u hw]; change u.cfg.ackOk ≠ u.cfg.ackWait; rw [hw.cfg]; exact hd)
  exact ⟨u, hw, hu.trans (hatt u hw)⟩

/-- A read that is acknowledged after some WAIT answers. -/
theorem xfer_read_waited (port : Port) (a : BitVec 2) (v w : Word) (p : Bool) {m : Nat} {rest : List Bool} {s : State}
    (ht : s.target = none) (hd : s.cfg.ackOk ≠ s.cfg.ackWait) (hm : m ≤ s.cfg.waitRetries)
    (h : s.answers = (List.replicate m (bitsOf s.cfg.ackWait)).flatten ++ (okRead s.cfg w p ++ rest)) :
    ∃ u, Waited port true a m (okRead s.cfg w p ++ rest) s u
      ∧ xfer port true a v s = afterRead port a (readOkEv u.cfg port a w p) rest w p u := by
  have hatt : ∀ u, Waited port true a m (okRead s.cfg w p ++ rest) s u →
      attempt port true a v u = afterRead port a (readOkEv u.cfg port a w p) rest w p u := fun u hw =>
    attempt_read_script port a v w p rest u hw.target (by rw [hw.answers, hw.cfg])
  obtain ⟨u, hw, hu⟩ := xfer_waited port true a v ht hd hm h fun u hw =>
    .inl (by rw [hatt u hw]; change u.cfg.ackOk ≠ u.cfg.ackWait; rw [hw.cfg]; exact hd)
  exact ⟨u, hw, hu.trans (hatt u hw)⟩

/-- The last attempt that `WAIT_RETRIES` allows, answered with WAIT too. -/
theorem xfer_wait_exhausted (port : Port) (rnw : Bool) (a : BitVec 2) (v : Word) {rest : List Bool} {s : State}
    (ht : s.target = none) (hd : s.cfg.ackOk ≠ s.cfg.ackWait)
    (h : s.answers = (List.replicate s.cfg.waitRetries (bitsOf s.cfg.ackWait)).flatten
      ++ (bitsOf s.cfg.ackWait ++ rest)) :
    ∃ u, Waited port rnw a s.cfg.waitRetries (bitsOf s.cfg.ackWait ++ rest) s u
      ∧ xfer port rnw a v s = afterAck port rnw a (notOkEv u.cfg port rnw a u.cfg.ackWait) rest u.cfg.ackWait u := by
  obtain ⟨u, hw, hu⟩ := xfer_waited port rnw a v ht hd le_rfl h fun _ _ => .inr rfl
  have hne : u.cfg.ackWait ≠ u.cfg.ackOk := by rw [hw.cfg]; exact hd.symm
  exact ⟨u, hw, hu.trans (attempt_notOk_script port rnw a v _ rest u hw.target hne (by rw [hw.answers, hw.cfg]))⟩

end Sys2Proof.Machine
end

section
/-!
SUPPORT. How many clock cycles and events an attempt takes, part by part (41_transaction.md R148).
-/

namespace Sys2Proof.Machine

/-- Some events make `c` clock cycles of half period `T` and are `n` in number; they take no other time. -/
structure Takes (T : Nat) (evs : List PinEvent) (c n : Nat) : Prop where
  cycles : cyclesIn evs = c
  events : evs.length = n
  time : delayOf evs = 2 * T * c

theorem Takes.append {T c d m n : Nat} {xs ys : List PinEvent} (hx : Takes T xs c m) (hy : Takes T ys d n) :
    Takes T (xs ++ ys) (c + d) (m + n) where
  cycles := by rw [cyclesIn_append, hx.cycles, hy.cycles]
  events := by rw [List.length_append, hx.events, hy.events]
  time := by rw [delayOf_append, hx.time, hy.time, Nat.mul_add]

theorem Takes.cast {T c d m n : Nat} {xs : List PinEvent} (h : Takes T xs c m) (hc : c = d) (hm : m = n) :
    Takes T xs d n := hc ▸ hm ▸ h

theorem takes_cycleEv (T : Nat) : Takes T (cycleEv T) 1 4 :=
  ⟨rfl, rfl, by simp [cycleEv, delayOf, two_mul]⟩

theorem takes_cyclesEv (T n : Nat) : Takes T (cyclesEv T n) n (4 * n) :=
  ⟨cyclesIn_cyclesEv T n, cyclesEv_length T n, by rw [delayOf_cyclesEv, Nat.mul_right_comm]⟩

theorem takes_writeBitsEv (T : Nat) (bs : List Bool) : Takes T (writeBitsEv T bs) bs.length (6 * bs.length) :=
  ⟨cyclesIn_writeBitsEv T bs, writeBitsEv_length T bs, by rw [delayOf_writeBitsEv, Nat.mul_right_comm]⟩

theorem takes_readBitsEv (T : Nat) (bs : List Bool) : Takes T (readBitsEv T bs) bs.length (6 * bs.length) :=
  ⟨cyclesIn_readBitsEv T bs, readBitsEv_length T bs, by rw [delayOf_readBitsEv, Nat.mul_right_comm]⟩

theorem takes_setDir (T : Nat) (d : Dir) : Takes T [.setDir d] 0 1 := ⟨rfl, rfl, rfl⟩

theorem takes_driveEv (T : Nat) (v : Bool) (n : Nat) : Takes T (driveEv T v n) (0 + n) (2 + 4 * n) :=
  Takes.append (xs := [.setDir .output, .setDio v]) ⟨rfl, rfl, rfl⟩ (takes_cyclesEv T n)

/-! ### The parts of an attempt (R140). -/

/-- The bits of a request header, 7 or 8 (30_encoding.md R90, R92). -/
def headerLen (cfg : Params) : Nat := if cfg.reqFormat = .doc7 then 7 else 8

section
variable (cfg : Params) (port : Port) (rnw : Bool) (a : BitVec 2)

theorem takes_requestEv :
    Takes cfg.tHalfUs (requestEv cfg port rnw a) (headerLen cfg + 1) (1 + 6 * headerLen cfg + 1 + 4) := by
  have hlen : (headerBits cfg.reqFormat port rnw a).length = headerLen cfg := headerBits_length _ _ _ _
  have hheader := takes_writeBitsEv cfg.tHalfUs (headerBits cfg.reqFormat port rnw a)
  rw [hlen] at hheader
  have h := (((takes_setDir cfg.tHalfUs .output).append hheader).append (takes_setDir _ .input)).append
    (takes_cycleEv _)
  rwa [Nat.zero_add, Nat.add_zero] at h

theorem takes_ackEv (k : BitVec 3) : Takes cfg.tHalfUs (readBitsEv cfg.tHalfUs (bitsOf k)) 3 18 := by
  simpa using takes_readBitsEv cfg.tHalfUs (bitsOf k)

theorem takes_closeEv : Takes cfg.tHalfUs (closeEv cfg) (1 + (0 + cfg.nIdle)) (4 + (2 + 4 * cfg.nIdle)) :=
  (takes_cycleEv _).append (takes_driveEv _ false cfg.nIdle)

/-- A word and its parity bit are 33 bits, read or written. -/
theorem word_parity_length (w : Word) (p : Bool) : (bitsOf w ++ [p]).length = 33 := by simp

theorem takes_readOkEv (w : Word) (p : Bool) :
    Takes cfg.tHalfUs (readOkEv cfg port a w p) (headerLen cfg + 4 + cfg.readTrn + 33 + 1 + cfg.nIdle)
      (1 + 6 * headerLen cfg + 1 + 4 + 18 + 4 * cfg.readTrn + 192 + 6 + 4 + (2 + 4 * cfg.nIdle)) := by
  have hword := takes_readBitsEv cfg.tHalfUs (bitsOf w ++ [p])
  rw [word_parity_length] at hword
  have h := ((((takes_requestEv cfg port true a).append (takes_ackEv cfg cfg.ackOk)).append
    (takes_cyclesEv _ cfg.readTrn)).append hword).append (takes_closeEv cfg)
  exact h.cast (by omega) (by omega)

theorem takes_writeOkEv (v : Word) :
    Takes cfg.tHalfUs (writeOkEv cfg port a v) (headerLen cfg + 4 + 1 + 33 + 1 + cfg.nIdle)
      (1 + 6 * headerLen cfg + 1 + 4 + 18 + 4 + 192 + 6 + 4 + (2 + 4 * cfg.nIdle)) := by
  have hword := takes_writeBitsEv cfg.tHalfUs (bitsOf v ++ [writeParity cfg v])
  rw [word_parity_length] at hword
  have h := ((((takes_requestEv cfg port false a).append (takes_ackEv cfg cfg.ackOk)).append
    (takes_cycleEv _)).append hword).append (takes_closeEv cfg)
  exact h.cast (by omega) (by omega)

theorem takes_notOkEv (k : BitVec 3) :
    Takes cfg.tHalfUs (notOkEv cfg port rnw a k) (headerLen cfg + 4 + 1 + cfg.nIdle)
      (1 + 6 * headerLen cfg + 1 + 4 + 18 + 4 + (2 + 4 * cfg.nIdle)) := by
  have h := ((takes_requestEv cfg port rnw a).append (takes_ackEv cfg k)).append (takes_closeEv cfg)
  exact h.cast (by omega) (by omega)

end

end Sys2Proof.Machine
end

section
/-!
PROOFS. The statements about transactions, and the frame of the commands built of them.
-/

namespace Sys2Proof.Machine

/-- Settles O19: transactions stay on the wire, and each command's own updates write its registers alone. -/
theorem componentCommandsChangeOnlyWhatTheyName : Obligations.ComponentCommandsChangeOnlyWhatTheyName := by
  unfold Obligations.ComponentCommandsChangeOnlyWhatTheyName
  intro s t
  refine ⟨?xfer, ?linkInit, ?powerUp, ?apConfig, ?cpuHalt, ?cpuReset, ?memRead, ?memWrite, ?massErase, ?pageErase,
    ?flashErase, ?flashWrite, ?flashVerify⟩
  case xfer => rintro port rnw a ⟨⟩; exact xfer_writesOnly port rnw a _ s
  case linkInit => rintro ⟨⟩; exact linkInit_writesOnly s
  case powerUp => rintro ⟨⟩; exact report_writesOnly (.powerUp s)
  case apConfig => rintro ⟨⟩; exact apConfig_writesOnly s
  case cpuHalt => rintro ⟨⟩; exact report_writesOnly (.cpuHalt s)
  case cpuReset => rintro ⟨⟩; exact report_writesOnly (.cpuReset s)
  case memRead => rintro ⟨⟩; exact memRead_writesOnly _ _ s
  case memWrite => rintro ⟨⟩; exact memWrite_writesOnly _ _ _ s
  case massErase => rintro ⟨⟩; exact report_writesOnly (.massErase s)
  case pageErase => rintro ⟨⟩; exact report_writesOnly (.pageErase _ s)
  case flashErase => rintro ⟨⟩; exact flashErase_writesOnly _ _ s
  case flashWrite => rintro ⟨⟩; exact flashWrite_writesOnly _ _ s
  case flashVerify => rintro ⟨⟩; exact flashVerify_writesOnly _ _ s

/-- Settles O27: the results reported are the word and the parity bit that the read frame took. -/
theorem xferReadAcknowledged : Obligations.XferReadAcknowledged := by
  unfold Obligations.XferReadAcknowledged
  intro port a s w p rest ht hd h
  rw [exec_xfer, xfer_read_script port a _ w p rest s ht hd h, xferResults_read rfl]
  rfl

/-- Settles O28. -/
theorem xferWriteAcknowledged : Obligations.XferWriteAcknowledged := by
  unfold Obligations.XferWriteAcknowledged
  intro port a s rest ht hd h
  rw [exec_xfer, xfer_write_script port a _ rest s ht hd h, xferResults_write rfl]
  rfl

/-- Settles O29: a failing ACK ends the transaction after one attempt without a data phase. -/
theorem xferNotAcknowledged : Obligations.XferNotAcknowledged := by
  unfold Obligations.XferNotAcknowledged
  intro port rnw a s k rest ht hk h
  rw [exec_xfer, xfer_failing_script port rnw a _ k rest s ht hk h, xferResults_of_ack_ne (ack_ne_of_failing hk)]
  rfl

/-- Settles O30: each WAIT answer uses up one further attempt. The attempt after the waits is the last, since it is
acknowledged or no further one is left. -/
theorem xferRetriesWhileWaiting : Obligations.XferRetriesWhileWaiting := by
  unfold Obligations.XferRetriesWhileWaiting
  intro port a s rest ht hd
  refine ⟨fun m hm h => ?write, fun m w hm h => ?read, fun rnw h => ?limit⟩
  case write =>
    obtain ⟨u, hw, hu⟩ := xfer_write_waited port a s.argData ht hd hm (by rw [h, List.append_assoc])
    refine ⟨_, exec_xfer port false a s, ?_⟩
    rw [hu, xferResults_write rfl, ← hw.ev, ← hw.cfg]
    exact ⟨rfl, rfl, play_ev _ u⟩
  case read =>
    obtain ⟨u, hw, hu⟩ := xfer_read_waited port a s.argData w (evenParity w) ht hd hm (by rw [h, List.append_assoc])
    refine ⟨_, exec_xfer port true a s, ?_⟩
    rw [hu, xferResults_read rfl, ← hw.ev, ← hw.cfg]
    exact ⟨if_neg fun hp => hp.2 rfl, rfl, rfl, play_ev _ u⟩
  case limit =>
    rw [List.replicate_succ', List.flatten_concat, List.append_assoc] at h
    obtain ⟨u, hw, hu⟩ := xfer_wait_exhausted port rnw a s.argData ht hd h
    have hne : u.cfg.ackWait ≠ u.cfg.ackOk := by rw [hw.cfg]; exact hd.symm
    refine ⟨_, exec_xfer port rnw a s, ?_⟩
    rw [hu, xferResults_of_ack_ne hne, List.replicate_succ', List.flatten_concat, ← List.append_assoc, ← hw.ev,
      ← hw.cfg]
    exact ⟨rfl, rfl, rfl, play_ev _ u⟩

/-- Settles O31: each `XFER` plays the events of its attempt, whose counts are the sums of its parts'. -/
theorem attemptsHaveTheCountsListed : Obligations.AttemptsHaveTheCountsListed := by
  unfold Obligations.AttemptsHaveTheCountsListed
  intro port a s rest ht hd H N takes
  refine ⟨fun w p h => ?read, fun h => ?write, fun rnw k hk h => ?failing⟩
  case read =>
    obtain ⟨hc, he, htime⟩ := takes_readOkEv s.cfg port a w p
    exact ⟨_, _, xferReadAcknowledged port a s w p rest ht hd h, play_ev _ s, hc, he, congrArg (s.stepCount + ·) he,
      congrArg (s.timeUs + ·) htime⟩
  case write =>
    obtain ⟨hc, he, htime⟩ := takes_writeOkEv s.cfg port a s.argData
    exact ⟨_, _, xferWriteAcknowledged port a s rest ht hd h, play_ev _ s, hc, he, congrArg (s.stepCount + ·) he,
      congrArg (s.timeUs + ·) htime⟩
  case failing =>
    obtain ⟨hc, he, htime⟩ := takes_notOkEv s.cfg port rnw a k
    exact ⟨_, _, xferNotAcknowledged port rnw a s k rest ht hk h, play_ev _ s, hc, he, congrArg (s.stepCount + ·) he,
      congrArg (s.timeUs + ·) htime⟩

end Sys2Proof.Machine
end

section
/-!
SUPPORT. Link initialisation, the access port and the control writes on a script: the link's sequence as its events
played, a transaction whose success is checked, and memory writes one after another (42_link_power_ap_cpu.md).
-/

namespace Sys2Proof.Machine

/-! ### The link's sequence. -/

/-- The line reset as its events played (R171). -/
theorem lineReset_eq_play (s : State) : lineReset s = play (lineResetEv s.cfg) s := by
  rw [lineReset, drive_eq_play, idle_eq_play, lineResetEv, play_append]
  rfl

theorem jtagToSwd_eq_play (s : State) :
    jtagToSwd s = play (writeBitsEv s.cfg.tHalfUs (bitsOf s.cfg.jtagToSwd)) s := writeBits_eq_play _ s

/-- The whole sequence before the IDCODE read as its events played (R173). -/
theorem linkSequence_eq_play (s : State) : linkSequence s = play (linkSequenceEv s.cfg) s := by
  rw [linkSequence, hwResetPulse_eq_play, lineReset_eq_play, jtagToSwd_eq_play, lineReset_eq_play, linkSequenceEv,
    play_append, play_append, play_append]
  rfl

/-- The lower bounds of the link's delays and counts in a valid parameter set (60_exceptions.md R345). -/
theorem link_bounds_of_valid {cfg : Params} (h : cfg.valid = true) :
    50 ≤ cfg.nLrHigh ∧ 1000 ≤ cfg.tRstHoldUs ∧ 100 ≤ cfg.tRstBootUs := by
  simp only [Params.valid, Params.checks, List.all_cons, id, Bool.and_eq_true, decide_eq_true_eq] at h
  obtain ⟨hhigh, hhold, hboot, -⟩ := h
  exact ⟨hhigh, hhold, hboot⟩

/-! ### A transaction whose success is checked (60_exceptions.md R331). -/

theorem checkXfer_of_ok {rnw : Bool} {e : ErrorKind} {s : State} (h : xferOk rnw s = true) :
    checkXfer rnw e s = .ok s := by rw [checkXfer, if_pos h]

theorem checkXfer_of_not_ok {rnw : Bool} {e : ErrorKind} {s : State} (h : xferOk rnw s = false) :
    checkXfer rnw e s = .raised e s := by rw [checkXfer, h, if_neg Bool.false_ne_true]

/-- An acknowledged read succeeds where its parity bit is accepted (41_transaction.md R143). -/
theorem xferOk_read_eq {s : State} (h : s.ack = s.cfg.ackOk) :
    xferOk true s = parityAccepted s.cfg s.rdata s.rparity := by
  cases hp : parityAccepted s.cfg s.rdata s.rparity with
  | true => exact xferOk_read h hp
  | false =>
    simp only [parityAccepted, Bool.or_eq_false_iff, decide_eq_false_iff_not, beq_eq_false_iff_ne] at hp
    obtain ⟨hpolicy, hbit⟩ := hp
    have hcheck : s.cfg.rdataParity = .check := by cases hr : s.cfg.rdataParity <;> simp_all
    simp [xferOk, hcheck, hbit]

section
variable (e : ErrorKind) (port : Port) (a : BitVec 2) (v : Word) {rest : List Bool} {s : State}

theorem checkXfer_write_script (ht : s.target = none) (hd : s.cfg.ackOk ≠ s.cfg.ackWait)
    (h : s.answers = okAcks s.cfg 1 ++ rest) :
    checkXfer false e (xfer port false a v s)
      = .ok (afterWrite port a (writeOkEv s.cfg port a v) rest s.cfg.ackOk s) := by
  rw [xfer_write_script port a v rest s ht hd h]
  exact checkXfer_of_ok (xferOk_write rfl)

theorem checkXfer_read_script {w : Word} {p : Bool} (ht : s.target = none) (hd : s.cfg.ackOk ≠ s.cfg.ackWait)
    (hp : parityAccepted s.cfg w p = true) (h : s.answers = okRead s.cfg w p ++ rest) :
    checkXfer true e (xfer port true a v s) = .ok (afterRead port a (readOkEv s.cfg port a w p) rest w p s) := by
  rw [xfer_read_script port a v w p rest s ht hd h]
  exact checkXfer_of_ok (xferOk_read rfl hp)

/-- A read whose parity bit is wrong under `CHECK`. -/
theorem checkXfer_read_parity {w : Word} {p : Bool} (ht : s.target = none) (hd : s.cfg.ackOk ≠ s.cfg.ackWait)
    (hp : parityAccepted s.cfg w p = false) (h : s.answers = okRead s.cfg w p ++ rest) :
    checkXfer true e (xfer port true a v s) = .raised e (afterRead port a (readOkEv s.cfg port a w p) rest w p s) := by
  rw [xfer_read_script port a v w p rest s ht hd h]
  exact checkXfer_of_not_ok ((xferOk_read_eq rfl).trans hp)

theorem checkXfer_failing {rnw : Bool} {k : BitVec 3} (ht : s.target = none) (hk : failingAck s.cfg k = true)
    (h : s.answers = bitsOf k ++ rest) :
    checkXfer rnw e (xfer port rnw a v s) = .raised e (afterAck port rnw a (notOkEv s.cfg port rnw a k) rest k s) := by
  rw [xfer_failing_script port rnw a v k rest s ht hk h]
  exact checkXfer_of_not_ok (xferOk_of_ack_ne (ack_ne_of_failing hk))

end

/-! ### What a command reports (60_exceptions.md R335). -/

theorem report_ok (s : State) : report (.ok s) = { s with resKind := .ok } := rfl

theorem report_raised (e : ErrorKind) (s : State) : report (.raised e s) = { s with resKind := .error e } := rfl

theorem Res.andThen_assoc (r : Res) (f g : State → Res) :
    (r.andThen f).andThen g = r.andThen fun s => (f s).andThen g := by cases r <;> rfl

/-! ### Link and access port. -/

/-- Where `LINK_INIT` reads the IDCODE (R173). -/
theorem linkInit_eq (s : State) :
    linkInit s = (checkXfer true .linkInitFailure
      (xfer .dp true 0 0 (play (linkSequenceEv s.cfg) (ensureSession s)))).andThen fun s => .ok (acceptIdcode s) := by
  rw [linkInit, linkSequence_eq_play]
  rfl

/-- The device parameters do not depend on the IDR (20_memory.md R76). -/
theorem deviceParameters_eq (s : State) :
    deviceParameters s = updateSession
      (fun x => { x with mscBase := some s.cfg.mscBase, pageSize := some s.cfg.pageSize }) s := ite_self _

theorem checkLocked_of_locked {s : State} (h : s.rdata = s.cfg.idrLocked) :
    checkLocked s = .raised .debugLocked s := by rw [checkLocked, if_pos h]

theorem checkLocked_of_not_locked {s : State} (h : s.rdata ≠ s.cfg.idrLocked) : checkLocked s = .ok s := by
  rw [checkLocked, if_neg h]

/-- The IDR is read, taken and tested (R190, R191). -/
def takeIdr (s : State) : Res :=
  (checkXfer true .apConfigFailure (xfer .ap true 3 0 s)).andThen fun s => checkLocked (acceptIdr s)

/-- `AP_CONFIG` from the second SELECT on (R190). -/
def configurePort (s : State) : Res :=
  (checkXfer false .apConfigFailure (xfer .dp false 2 s.cfg.selBank0 (deviceParameters s))).andThen fun s =>
  checkXfer false .apConfigFailure (xfer .ap false 0 s.cfg.cswValue s)

theorem apConfig_eq (s : State) :
    apConfig s = (checkXfer false .apConfigFailure (xfer .dp false 2 s.cfg.selIdrBank (ensureSession s))).andThen
      fun s => (takeIdr s).andThen configurePort := by
  simp only [takeIdr, Res.andThen_assoc]
  rfl

/-- What `LINK_INIT` or `AP_CONFIG` changes up to some point: the events played, the answers left, the transaction
registers, the session and `RES_DATA`. -/
structure LinkChange where
  evs : List PinEvent
  answers : List Bool
  reqParity : Bool
  ack : BitVec 3
  rdata : Word
  rparity : Bool
  session : Session
  resData : Word

/-- The state so changed. -/
def LinkChange.apply (c : LinkChange) (s : State) : State :=
  { play c.evs s with
    answers := c.answers, reqParity := c.reqParity, ack := c.ack, rdata := c.rdata, rparity := c.rparity
    session := some c.session, resData := c.resData }

/-- A transaction whose ACK is `k` and that reads no word. -/
def LinkChange.acked (c : LinkChange) (evs : List PinEvent) (rest : List Bool) (q : Bool) (k : BitVec 3) : LinkChange :=
  { c with evs := c.evs ++ evs, answers := rest, reqParity := q, ack := k }

/-- An acknowledged read. -/
def LinkChange.read (c : LinkChange) (evs : List PinEvent) (rest : List Bool) (q : Bool) (k : BitVec 3) (w : Word)
    (p : Bool) : LinkChange := { c.acked evs rest q k with rdata := w, rparity := p }

/-- The IDCODE and the core family in the session, and the IDCODE in `RES_DATA`. -/
def LinkChange.idcodeTaken (c : LinkChange) (cfg : Params) : LinkChange :=
  { c with
    session := { c.session with idcode := some c.rdata, core := some (coreOfIdcode cfg c.rdata) }
    resData := c.rdata }

/-- The IDR in the session and in `RES_DATA`. -/
def LinkChange.idrTaken (c : LinkChange) : LinkChange :=
  { c with session := { c.session with apIdr := some c.rdata }, resData := c.rdata }

/-- The device parameters in the session. -/
def LinkChange.parametersSet (c : LinkChange) (cfg : Params) : LinkChange :=
  { c with session := { c.session with mscBase := some cfg.mscBase, pageSize := some cfg.pageSize } }

namespace LinkChange

/-- The change with which either begins: a scratch session where there is none (log 12), and some events. -/
def start (s : State) (evs : List PinEvent) : LinkChange :=
  { evs := evs, answers := s.answers, reqParity := s.reqParity, ack := s.ack, rdata := s.rdata, rparity := s.rparity
    session := s.session.getD .fresh, resData := s.resData }

theorem apply_start (s : State) (evs : List PinEvent) : (start s evs).apply s = play evs (ensureSession s) := rfl

/-- The first transaction of `AP_CONFIG`. -/
theorem acked_start_nil (s : State) (evs : List PinEvent) (rest : List Bool) (q : Bool) (k : BitVec 3) :
    (start s []).acked evs rest q k = { start s evs with answers := rest, reqParity := q, ack := k } := by
  rw [acked, start, List.nil_append, start]

theorem acceptIdcode_apply (c : LinkChange) (s : State) : acceptIdcode (c.apply s) = (c.idcodeTaken s.cfg).apply s := rfl

theorem acceptIdr_apply (c : LinkChange) (s : State) : acceptIdr (c.apply s) = c.idrTaken.apply s := rfl

theorem deviceParameters_apply (c : LinkChange) (s : State) :
    deviceParameters (c.apply s) = (c.parametersSet s.cfg).apply s := by rw [deviceParameters_eq]; rfl

section
variable (e : ErrorKind) (port : Port) (a : BitVec 2) (v : Word) {rest : List Bool} {s : State} {c : LinkChange}

theorem write_ok (ht : s.target = none) (hd : s.cfg.ackOk ≠ s.cfg.ackWait) (h : c.answers = okAcks s.cfg 1 ++ rest) :
    checkXfer false e (xfer port false a v (c.apply s)) = .ok ((c.acked (writeOkEv s.cfg port a v) rest
      (requestParity s.cfg.reqFormat port false a) s.cfg.ackOk).apply s) := by
  rw [checkXfer_write_script (s := c.apply s) e port a v ht hd h]
  simp only [apply, acked, afterWrite, play_append]
  rfl

theorem read_ok {w : Word} {p : Bool} (ht : s.target = none) (hd : s.cfg.ackOk ≠ s.cfg.ackWait)
    (hp : parityAccepted s.cfg w p = true) (h : c.answers = okRead s.cfg w p ++ rest) :
    checkXfer true e (xfer port true a v (c.apply s)) = .ok ((c.read (readOkEv s.cfg port a w p) rest
      (requestParity s.cfg.reqFormat port true a) s.cfg.ackOk w p).apply s) := by
  rw [checkXfer_read_script (s := c.apply s) e port a v ht hd hp h]
  simp only [apply, read, acked, afterRead, play_append]
  rfl

theorem read_parity {w : Word} {p : Bool} (ht : s.target = none) (hd : s.cfg.ackOk ≠ s.cfg.ackWait)
    (hp : parityAccepted s.cfg w p = false) (h : c.answers = okRead s.cfg w p ++ rest) :
    checkXfer true e (xfer port true a v (c.apply s)) = .raised e ((c.read (readOkEv s.cfg port a w p) rest
      (requestParity s.cfg.reqFormat port true a) s.cfg.ackOk w p).apply s) := by
  rw [checkXfer_read_parity (s := c.apply s) e port a v ht hd hp h]
  simp only [apply, read, acked, afterRead, play_append]
  rfl

theorem failing {rnw : Bool} {k : BitVec 3} (ht : s.target = none) (hk : failingAck s.cfg k = true)
    (h : c.answers = bitsOf k ++ rest) :
    checkXfer rnw e (xfer port rnw a v (c.apply s)) = .raised e ((c.acked (notOkEv s.cfg port rnw a k) rest
      (requestParity s.cfg.reqFormat port rnw a) k).apply s) := by
  rw [checkXfer_failing (s := c.apply s) e port a v ht hk h]
  simp only [apply, acked, afterAck, play_append]
  rfl

end

end LinkChange

/-! ### Memory writes one after another (43_memory_access.md R222, 60_exceptions.md R333). -/

/-- Some memory writes, each an address and a word; the first that fails raises `e`. -/
def memWrites (e : ErrorKind) : List (Word × Word) → State → Res
  | [], s => .ok s
  | w :: ws, s => (memWriteOr e w.1 w.2 s).andThen (memWrites e ws)

theorem memWriteOr_ok_cfg {e : ErrorKind} {addr data : Word} {s t : State} (h : memWriteOr e addr data s = .ok t) :
    t.cfg = s.cfg := by
  have hw := (OnWire.memWriteOr e addr data s).cfg
  rwa [h] at hw

/-- What follows a memory write may be looked at with the parameters of the state before it. -/
theorem memWriteOr_andThen_congr {e : ErrorKind} {addr data : Word} {s : State} {f g : State → Res}
    (h : ∀ t, t.cfg = s.cfg → f t = g t) :
    (memWriteOr e addr data s).andThen f = (memWriteOr e addr data s).andThen g := by
  cases hr : memWriteOr e addr data s with
  | ok t => exact h t (memWriteOr_ok_cfg hr)
  | raised e t => rfl

/-- `CPU_RESET` is its one control write (R201). -/
theorem cpuReset_eq_memWrites (s : State) :
    cpuReset s = memWrites .haltFailure [(s.cfg.aircrAddr, s.cfg.aircrReset)] s := by
  rw [cpuReset, memWrites]
  cases memWriteOr .haltFailure s.cfg.aircrAddr s.cfg.aircrReset s <;> rfl

/-- `CPU_HALT` is its three control writes (R200). -/
theorem cpuHalt_eq_memWrites (s : State) : cpuHalt s = memWrites .haltFailure (haltWrites s.cfg) s := by
  rw [cpuHalt, haltWrites, memWrites]
  refine memWriteOr_andThen_congr fun t ht => ?_
  rw [← ht, memWrites]
  refine memWriteOr_andThen_congr fun u hu => ?_
  rw [← hu]
  exact cpuReset_eq_memWrites u

theorem memWritesEv_cons (cfg : Params) (w : Word × Word) (ws : List (Word × Word)) :
    memWritesEv cfg (w :: ws) = memWriteEv cfg w.1 w.2 ++ memWritesEv cfg ws := rfl

/-- Memory writes whose transactions are all acknowledged. -/
theorem memWrites_script (e : ErrorKind) (w : Word × Word) (ws : List (Word × Word)) {rest : List Bool} {s : State}
    (ht : s.target = none) (hd : s.cfg.ackOk ≠ s.cfg.ackWait)
    (h : s.answers = okAcks s.cfg (2 * (w :: ws).length) ++ rest) :
    memWrites e (w :: ws) s = .ok (afterWrite .ap 3 (memWritesEv s.cfg (w :: ws)) rest s.cfg.ackOk s) := by
  induction ws generalizing w s with
  | nil =>
    rw [memWrites, memWriteOr_script e w.1 w.2 rest s ht hd h]
    simp [memWrites, memWritesEv]
  | cons w' ws ih =>
    have hn : 2 * (w :: w' :: ws).length = 2 + 2 * (w' :: ws).length := by simp only [List.length_cons]; omega
    rw [hn, okAcks_add, List.append_assoc] at h
    rw [memWrites, memWriteOr_script e w.1 w.2 _ s ht hd h, Res.andThen_ok,
      ih (s := afterWrite _ _ _ _ _ _) w' ht hd rfl, afterWrite_afterWrite,
      memWritesEv_cons]
    rfl

/-- Memory writes whose first `m` transactions are acknowledged and whose next fails. -/
theorem memWrites_failing (e : ErrorKind) (ws : List (Word × Word)) {m : Nat} {k : BitVec 3} {rest : List Bool}
    {s : State} (ht : s.target = none) (hd : s.cfg.ackOk ≠ s.cfg.ackWait) (hk : failingAck s.cfg k = true)
    (hm : m < 2 * ws.length) (h : s.answers = okAcks s.cfg m ++ bitsOf k ++ rest) :
    memWrites e ws s = .raised e (afterWrite .ap (tarOrDrw m) (failedWritesEv s.cfg ws m k) rest k s) := by
  induction ws generalizing m s with
  | nil => simp at hm
  | cons w ws ih =>
    rw [memWrites]
    by_cases hlt : m < 2
    · rw [memWriteOr_failing e w.1 w.2 m k rest s ht hd hk hlt h, failedWritesEv_head _ _ ws _ _ hlt]
      rfl
    · obtain ⟨j, rfl⟩ : ∃ j, m = j + 2 := ⟨m - 2, by omega⟩
      have hj : j < 2 * ws.length := by simp only [List.length_cons] at hm; omega
      rw [Nat.add_comm, okAcks_add, List.append_assoc, List.append_assoc, ← List.append_assoc (okAcks _ j)] at h
      rw [memWriteOr_script e w.1 w.2 _ s ht hd h, Res.andThen_ok,
        ih (s := afterWrite _ _ _ _ _ _) ht hd hk hj rfl, afterWrite_afterWrite,
        failedWritesEv_tail]
      simp [tarOrDrw, afterWrite]

end Sys2Proof.Machine
end

section
/-!
PROOFS. The statements about the link, the access port and the CPU.
-/

namespace Sys2Proof.Machine

/-- Settles O33: the drive leaves SWCLK high, since a valid parameter set has `N_LR_HIGH` at least 50. -/
theorem lineResetDrivesHighThenLow : Obligations.LineResetDrivesHighThenLow := by
  unfold Obligations.LineResetDrivesHighThenLow
  refine ⟨decode_encode .lineReset, fun s hv => ⟨(link_bounds_of_valid hv).1, ?_⟩⟩
  have hne : s.cfg.nLrHigh ≠ 0 := by have := (link_bounds_of_valid hv).1; omega
  refine congrArg Host.Outcome.next ?_
  rw [lineReset, idle, drive_eq_fields, drive_eq_fields]
  simp only [hne, if_false, ite_self, List.reverse_append, List.append_assoc, State.mk.injEq, true_and, and_true]
  exact ⟨by ring, by ring⟩

/-- Settles O35: the read comes after the sequence, and what it takes goes to the session unless it fails. -/
theorem linkInitTakesTheIdcodeOrFails : Obligations.LinkInitTakesTheIdcodeOrFails := by
  unfold Obligations.LinkInitTakesTheIdcodeOrFails
  intro s rest ht hd
  have hexec : exec .linkInit s = .next (report (linkInit s)) := rfl
  rw [hexec, linkInit_eq, ← LinkChange.apply_start]
  refine ⟨fun w p h hp => ?_, fun k hk h => ?_, fun w p h hp => ?_⟩
  · rw [LinkChange.read_ok _ .dp 0 0 ht hd hp h, Res.andThen_ok, LinkChange.acceptIdcode_apply, report_ok]
    rfl
  · rw [LinkChange.failing _ .dp 0 0 ht hk h, Res.andThen_raised, report_raised]
    rfl
  · rw [LinkChange.read_parity _ .dp 0 0 ht hd hp h, Res.andThen_raised, report_raised]
    rfl

/-- Settles O37: transaction by transaction, each acknowledged up to the one that fails. -/
theorem apConfigSetsUpThePortOrFindsItLocked : Obligations.ApConfigSetsUpThePortOrFindsItLocked := by
  unfold Obligations.ApConfigSetsUpThePortOrFindsItLocked
  intro s p rest ht hd
  have hexec : exec .apConfig s = .next (report (apConfig s)) := rfl
  have hacks : okAcks s.cfg 2 = okAcks s.cfg 1 ++ okAcks s.cfg 1 := okAcks_succ s.cfg 1
  rw [hexec, apConfig_eq, ← play_nil (ensureSession s), ← LinkChange.apply_start]
  refine ⟨fun w hw hp h => ?configured, fun hp h => ?locked, fun k hk => ⟨fun h => ?firstSelect, fun h => ?idr,
    fun w hw hp => ⟨fun h => ?secondSelect, fun h => ?csw⟩⟩, fun w hp h => ?parity⟩
  case firstSelect =>
    rw [LinkChange.failing _ .dp 2 _ ht hk h, LinkChange.acked_start_nil, Res.andThen_raised, report_raised]
    rfl
  all_goals simp only [hacks, List.append_assoc] at h
  all_goals rw [LinkChange.write_ok _ .dp 2 _ ht hd h, LinkChange.acked_start_nil, Res.andThen_ok, takeIdr]
  case idr =>
    rw [LinkChange.failing _ .ap 3 _ ht hk rfl, Res.andThen_raised, Res.andThen_raised, report_raised]
    rfl
  case parity =>
    rw [LinkChange.read_parity _ .ap 3 _ ht hd hp rfl, Res.andThen_raised, Res.andThen_raised, report_raised]
    rfl
  all_goals rw [LinkChange.read_ok _ .ap 3 _ ht hd hp rfl, Res.andThen_ok, LinkChange.acceptIdr_apply]
  case locked =>
    rw [checkLocked_of_locked rfl, Res.andThen_raised, report_raised]
    rfl
  all_goals rw [checkLocked_of_not_locked hw, Res.andThen_ok, configurePort, LinkChange.deviceParameters_apply]
  case secondSelect =>
    rw [LinkChange.failing _ .dp 2 _ ht hk rfl, Res.andThen_raised, report_raised]
    rfl
  case configured =>
    rw [LinkChange.write_ok _ .dp 2 _ ht hd rfl, Res.andThen_ok, LinkChange.write_ok _ .ap 0 _ ht hd rfl,
      report_ok]
    rfl
  case csw =>
    rw [LinkChange.write_ok _ .dp 2 _ ht hd rfl, Res.andThen_ok, LinkChange.failing _ .ap 0 _ ht hk rfl,
      report_raised]
    rfl

/-- Settles O38: each command is a list of memory writes. -/
theorem cpuControlWritesItsRegistersOrStops : Obligations.CpuControlWritesItsRegistersOrStops := by
  unfold Obligations.CpuControlWritesItsRegistersOrStops
  have halt : ∀ s, exec .cpuHalt s = .next (report (memWrites .haltFailure (haltWrites s.cfg) s)) := fun s =>
    congrArg (fun r => Host.Outcome.next (report r)) (cpuHalt_eq_memWrites s)
  have reset : ∀ s, exec .cpuReset s
      = .next (report (memWrites .haltFailure [(s.cfg.aircrAddr, s.cfg.aircrReset)] s)) := fun s =>
    congrArg (fun r => Host.Outcome.next (report r)) (cpuReset_eq_memWrites s)
  intro s rest ht hd
  refine ⟨fun h => ?_, fun h => ?_, fun m k hk h => ⟨fun hm => ?_, fun hm => ?_⟩⟩
  · rw [halt, haltWrites, memWrites_script .haltFailure _ _ ht hd h]
    rfl
  · rw [reset, memWrites_script .haltFailure _ _ ht hd h]
    simp [memWritesEv, report, afterWrite]
  · rw [halt, memWrites_failing .haltFailure _ ht hd hk hm h]
    rfl
  · rw [reset, memWrites_failing .haltFailure _ ht hd hk hm h]
    rfl

/-- Settles O32: the pulse's four events, and the bounds of its two delays. -/
theorem hwResetPulseHoldsAndReleases : Obligations.HwResetPulseHoldsAndReleases := by
  unfold Obligations.HwResetPulseHoldsAndReleases
  refine ⟨decode_encode .hwResetPulse, fun s => ⟨?_, fun hv => (link_bounds_of_valid hv).2⟩⟩
  exact congrArg Host.Outcome.next (hwResetPulse_eq_play s)

/-- Settles O34: the bits written are the pattern's, so the last one is bit 15. -/
theorem jtagToSwdSendsThePattern : Obligations.JtagToSwdSendsThePattern := by
  unfold Obligations.JtagToSwdSendsThePattern
  refine ⟨decode_encode .jtagToSwd, by decide, by decide, fun s => ?_⟩
  have h : jtagToSwd s = _ := writeBits_eq_fields (bitsOf_ne_nil s.cfg.jtagToSwd) s
  rw [bitsOf_getLastD, bitsOf_length, bitsOf_eq_getLsbD] at h
  exact congrArg Host.Outcome.next h

end Sys2Proof.Machine
end

section
/-!
SUPPORT. Components on a script: how a step that can fail ends, and what the statements about a scripted run follow of
the state on the way, transaction by transaction.
-/

namespace Sys2Proof.Machine

/-! ### How a step that can fail ends. -/

/-- The step succeeds (`none`) or raises the kind named, in a state with property `P`. -/
def Res.Ends (r : Res) : Option ErrorKind → (State → Prop) → Prop
  | none, P => ∃ t, r = .ok t ∧ P t
  | some e, P => ∃ t, r = .raised e t ∧ P t

namespace Res.Ends

variable {r : Res} {o : Option ErrorKind} {e : ErrorKind} {P Q : State → Prop} {f : State → Res}

theorem ok {t : State} (h : P t) : (Res.ok t).Ends none P := ⟨t, rfl, h⟩

theorem raised {t : State} (h : P t) : (Res.raised e t).Ends (some e) P := ⟨t, rfl, h⟩

theorem andThen (h : r.Ends none P) (hf : ∀ t, P t → (f t).Ends o Q) : (r.andThen f).Ends o Q := by
  obtain ⟨t, rfl, ht⟩ := h
  exact hf t ht

/-- A raised kind skips the rest (60_exceptions.md R333). -/
theorem skip (h : r.Ends (some e) P) : (r.andThen f).Ends (some e) P := by
  obtain ⟨t, rfl, ht⟩ := h
  exact ⟨t, rfl, ht⟩

theorem imp (h : r.Ends o P) (hp : ∀ t, P t → Q t) : r.Ends o Q := by
  cases o <;> exact h.imp fun t ht => ⟨ht.1, hp t ht.2⟩

end Res.Ends

/-! ### What is followed of the state. -/

theorem getLastD_append {α : Type} (xs ys : List α) (d : α) : (xs ++ ys).getLastD d = ys.getLastD (xs.getLastD d) := by
  simp [List.getLastD_eq_getLast?, List.getLast?_append, Option.getD_or]

/-- The event history, the notifications and the progress. -/
structure Log where
  ev : List PinEvent
  note : List Note
  progress : Nat

namespace Log

/-- Some events more. -/
def play (evs : List PinEvent) (l : Log) : Log := { l with ev := l.ev ++ evs }

/-- The progress set to some values in turn (44_flash.md R240). -/
def sets (vals : List Nat) (l : Log) : Log :=
  { l with note := l.note ++ progressNotes l.progress vals, progress := vals.getLastD l.progress }

/-- A status set (45_status_orchestrator.md R290). -/
def status (v : Status) (l : Log) : Log := { l with note := l.note ++ [.status v] }

theorem play_nil (l : Log) : l.play [] = l := by simp [play]

theorem play_play (l : Log) (xs ys : List PinEvent) : (l.play xs).play ys = l.play (xs ++ ys) := by simp [play]

theorem sets_nil (l : Log) : l.sets [] = l := by simp [sets, progressNotes]

theorem sets_sets (l : Log) (xs ys : List Nat) : (l.sets xs).sets ys = l.sets (xs ++ ys) := by
  simp only [sets, progressNotes_append, getLastD_append, List.append_assoc]

/-- Events and progress do not meet. -/
theorem play_sets (l : Log) (xs : List PinEvent) (vals : List Nat) : (l.sets vals).play xs = (l.play xs).sets vals := rfl

end Log

/-- The log of a state. -/
def State.log (s : State) : Log := ⟨s.ev, s.note, s.progress⟩

theorem play_log (evs : List PinEvent) (s : State) : (play evs s).log = s.log.play evs :=
  congrArg (Log.mk · s.note s.progress) (play_ev evs s)

theorem setProgress_log (p : Nat) (s : State) : (setProgress p s).log = s.log.sets [p] :=
  congrArg (Log.mk s.ev · p) (setProgress_note p s)

/-- A state on a script: its parameters, its image, its log and the answers left; no reference target is attached. -/
structure At (cfg : Params) (image : List Byte) (l : Log) (ans : List Bool) (s : State) : Prop where
  cfg : s.cfg = cfg
  image : s.image = image
  target : s.target = none
  answers : s.answers = ans
  log : s.log = l

namespace At

variable {cfg : Params} {image : List Byte} {l : Log} {ans : List Bool} {s : State}

/-- A change of state that touches nothing followed. -/
theorem same {t : State} (h : At cfg image l ans s)
    (ht : (t.cfg, t.image, t.target, t.answers, t.log) = (s.cfg, s.image, s.target, s.answers, s.log)) :
    At cfg image l ans t := by
  simp only [Prod.mk.injEq] at ht
  obtain ⟨hc, hi, hr, ha, hl⟩ := ht
  exact ⟨hc.trans h.cfg, hi.trans h.image, hr.trans h.target, ha.trans h.answers, hl.trans h.log⟩

theorem play (h : At cfg image l ans s) (evs : List PinEvent) : At cfg image (l.play evs) ans (play evs s) :=
  ⟨h.cfg, h.image, h.target, h.answers, h.log ▸ play_log evs s⟩

theorem delay (h : At cfg image l ans s) (us : Nat) : At cfg image (l.play [.delay us]) ans (delay us s) :=
  h.play [.delay us]

theorem setProgress (h : At cfg image l ans s) (p : Nat) : At cfg image (l.sets [p]) ans (setProgress p s) :=
  ⟨h.cfg, h.image, h.target, h.answers, h.log ▸ setProgress_log p s⟩

theorem setStatus (h : At cfg image l ans s) (v : Status) : At cfg image (l.status v) ans (setStatus v s) :=
  ⟨h.cfg, h.image, h.target, h.answers, h.log ▸ rfl⟩

/-- Some events played, and the answers `rest` left. -/
theorem answered (h : At cfg image l ans s) (evs : List PinEvent) (rest : List Bool) :
    At cfg image (l.play evs) rest { Machine.play evs s with answers := rest } :=
  ⟨h.cfg, h.image, h.target, rfl, (h.play evs).log⟩

theorem afterWrite (h : At cfg image l ans s) (port : Port) (a : BitVec 2) (evs : List PinEvent) (rest : List Bool)
    (k : BitVec 3) : At cfg image (l.play evs) rest (afterWrite port a evs rest k s) := (h.answered evs rest).same rfl

theorem afterRead (h : At cfg image l ans s) (port : Port) (a : BitVec 2) (evs : List PinEvent) (rest : List Bool)
    (w : Word) (p : Bool) : At cfg image (l.play evs) rest (afterRead port a evs rest w p s) :=
  (h.answered evs rest).same rfl

theorem afterAck (h : At cfg image l ans s) (port : Port) (rnw : Bool) (a : BitVec 2) (evs : List PinEvent)
    (rest : List Bool) (k : BitVec 3) : At cfg image (l.play evs) rest (afterAck port rnw a evs rest k s) :=
  (h.answered evs rest).same rfl

/-! ### Transactions. -/

section
variable (e : ErrorKind) (port : Port) (a : BitVec 2) (v : Word)

theorem write_ok (hd : cfg.ackOk ≠ cfg.ackWait) (h : At cfg image l (okAcks cfg 1 ++ ans) s) :
    (checkXfer false e (xfer port false a v s)).Ends none (At cfg image (l.play (writeOkEv cfg port a v)) ans) := by
  obtain rfl := h.cfg
  rw [checkXfer_write_script e port a v h.target hd h.answers]
  exact .ok (h.afterWrite ..)

theorem read_ok (hd : cfg.ackOk ≠ cfg.ackWait) {w : Word} (h : At cfg image l (okRead cfg w (evenParity w) ++ ans) s) :
    (checkXfer true e (xfer port true a v s)).Ends none
      fun t => At cfg image (l.play (readOkEv cfg port a w (evenParity w))) ans t ∧ t.rdata = w := by
  obtain rfl := h.cfg
  rw [checkXfer_read_script e port a v h.target hd (parityAccepted_even _ _) h.answers]
  exact .ok ⟨h.afterRead .., rfl⟩

theorem failing {rnw : Bool} {k : BitVec 3} (hk : failingAck cfg k = true) (h : At cfg image l (bitsOf k ++ ans) s) :
    (checkXfer rnw e (xfer port rnw a v s)).Ends (some e) (At cfg image (l.play (notOkEv cfg port rnw a k)) ans) := by
  obtain rfl := h.cfg
  rw [checkXfer_failing e port a v h.target hk h.answers]
  exact .raised (h.afterAck ..)

end

/-! ### Memory writes (43_memory_access.md R222). -/

theorem memWrites (hd : cfg.ackOk ≠ cfg.ackWait) (e : ErrorKind) (ws : List (Word × Word))
    (h : At cfg image l (okAcks cfg (2 * ws.length) ++ ans) s) :
    (memWrites e ws s).Ends none (At cfg image (l.play (memWritesEv cfg ws)) ans) := by
  cases ws with
  | nil => exact .ok ((Log.play_nil l).symm ▸ h)
  | cons w ws =>
    obtain rfl := h.cfg
    rw [memWrites_script e w ws h.target hd h.answers]
    exact .ok (h.afterWrite ..)

theorem memWrites_failing (hd : cfg.ackOk ≠ cfg.ackWait) (e : ErrorKind) (ws : List (Word × Word)) {m : Nat}
    {k : BitVec 3} (hk : failingAck cfg k = true) (hm : m < 2 * ws.length)
    (h : At cfg image l (okAcks cfg m ++ bitsOf k ++ ans) s) :
    (Machine.memWrites e ws s).Ends (some e) (At cfg image (l.play (failedWritesEv cfg ws m k)) ans) := by
  obtain rfl := h.cfg
  rw [Machine.memWrites_failing e ws h.target hd hk hm h.answers]
  exact .raised (h.afterWrite ..)

/-! ### Link and access port. -/

theorem ensureSession (h : At cfg image l ans s) : At cfg image l ans (ensureSession s) := h.same rfl

theorem acceptIdcode (h : At cfg image l ans s) : At cfg image l ans (acceptIdcode s) := h.same rfl

theorem acceptIdr (h : At cfg image l ans s) : At cfg image l ans (acceptIdr s) := h.same rfl

theorem deviceParameters (h : At cfg image l ans s) : At cfg image l ans (deviceParameters s) := by
  rw [deviceParameters_eq]
  exact h.same rfl

theorem linkInit_ok (hd : cfg.ackOk ≠ cfg.ackWait) {w : Word}
    (h : At cfg image l (okRead cfg w (evenParity w) ++ ans) s) :
    (linkInit s).Ends none (At cfg image (l.play (linkSequenceEv cfg ++ readOkEv cfg .dp 0 w (evenParity w))) ans) := by
  obtain rfl := h.cfg
  rw [linkInit_eq, ← Log.play_play]
  exact (read_ok _ .dp 0 0 hd (h.ensureSession.play _)).andThen fun t ht => .ok ht.1.acceptIdcode

theorem linkInit_failing {k : BitVec 3} (hk : failingAck cfg k = true) (h : At cfg image l (bitsOf k ++ ans) s) :
    (linkInit s).Ends (some .linkInitFailure)
      (At cfg image (l.play (linkSequenceEv cfg ++ notOkEv cfg .dp true 0 k)) ans) := by
  obtain rfl := h.cfg
  rw [linkInit_eq, ← Log.play_play]
  exact (failing _ .dp 0 0 hk (h.ensureSession.play _)).skip

/-! ### Power-up (42_link_power_ap_cpu.md R180). -/

/-- A poll that does not end the power-up. -/
theorem poll (hd : cfg.ackOk ≠ cfg.ackWait) {q : BitVec 3 × Word} (hq : pollFails cfg q = true)
    (h : At cfg image l (pollAnswer cfg q ++ ans) s) :
    At cfg image (l.play (pollEv cfg q)) ans (dpRead 1 s)
      ∧ (xferOk true (dpRead 1 s) && poweredUp (dpRead 1 s).cfg (dpRead 1 s).rdata) = false := by
  obtain rfl := h.cfg
  by_cases hack : q.1 = s.cfg.ackOk
  · simp only [pollFails, pollAnswer, pollEv, if_pos hack, Bool.not_eq_true'] at hq h ⊢
    rw [dpRead, xfer_read_script .dp 1 0 q.2 _ ans s h.target hd h.answers]
    exact ⟨h.afterRead .., Bool.and_eq_false_imp.2 fun _ => hq⟩
  · have hk : failingAck s.cfg q.1 = true := by simpa [failingAck, pollFails, hack] using hq
    simp only [pollAnswer, pollEv, if_neg hack] at h ⊢
    rw [dpRead, xfer_failing_script .dp true 1 0 q.1 ans s h.target hk h.answers, xferOk_of_ack_ne hack]
    exact ⟨h.afterAck .., rfl⟩

end At

theorem pollPower_again {n : Nat} {s : State}
    (h : (xferOk true (dpRead 1 s) && poweredUp (dpRead 1 s).cfg (dpRead 1 s).rdata) = false) :
    pollPower (n + 2) s = pollPower (n + 1) (delay (dpRead 1 s).cfg.tPollUs (dpRead 1 s)) := by
  rw [pollPower, h]
  rfl

theorem pollPower_last {s : State}
    (h : (xferOk true (dpRead 1 s) && poweredUp (dpRead 1 s).cfg (dpRead 1 s).rdata) = false) :
    pollPower 1 s = .raised .powerUpTimeout (dpRead 1 s) := by
  rw [pollPower, h]
  rfl

theorem pollPower_powered {n : Nat} {s : State}
    (h : (xferOk true (dpRead 1 s) && poweredUp (dpRead 1 s).cfg (dpRead 1 s).rdata) = true) :
    pollPower (n + 1) s = .ok (dpRead 1 s) := by
  rw [pollPower, h]
  rfl

/-- The events of some unsuccessful polls, each with the delay after it (R180). -/
def pollsEv (cfg : Params) (qs : List (BitVec 3 × Word)) : List PinEvent :=
  qs.flatMap fun q => pollEv cfg q ++ [.delay cfg.tPollUs]

namespace At

variable {cfg : Params} {image : List Byte} {l : Log} {ans : List Bool} {s : State}

/-- Some unsuccessful polls with at least one left. -/
theorem polls (hd : cfg.ackOk ≠ cfg.ackWait) (qs : List (BitVec 3 × Word)) (hq : ∀ q ∈ qs, pollFails cfg q = true)
    (n : Nat) (h : At cfg image l (qs.flatMap (pollAnswer cfg) ++ ans) s) :
    ∃ t, At cfg image (l.play (pollsEv cfg qs)) ans t ∧ pollPower (qs.length + (n + 1)) s = pollPower (n + 1) t := by
  induction qs generalizing l s with
  | nil => exact ⟨s, by rw [pollsEv, List.flatMap_nil, Log.play_nil]; exact h, by rw [List.length_nil, Nat.zero_add]⟩
  | cons q qs ih =>
    rw [List.flatMap_cons, List.append_assoc] at h
    obtain ⟨h₁, hfail⟩ := poll hd (hq q (by simp)) h
    obtain ⟨t, ht, he⟩ := ih (fun x hx => hq x (by simp [hx])) (h₁.delay cfg.tPollUs)
    refine ⟨t, by simpa only [Log.play_play, pollsEv, List.flatMap_cons, List.append_assoc] using ht, ?_⟩
    rw [← he, ← h₁.cfg, ← Nat.add_assoc, ← Nat.add_assoc, List.length_cons, Nat.add_right_comm _ 1 n]
    exact pollPower_again hfail

/-- The polls end at the first that shows both acknowledges. -/
theorem pollPower_ok (hd : cfg.ackOk ≠ cfg.ackWait) {qs : List (BitVec 3 × Word)} {w : Word} {n : Nat}
    (hn : qs.length < n) (hq : ∀ q ∈ qs, pollFails cfg q = true) (hw : poweredUp cfg w = true)
    (h : At cfg image l (qs.flatMap (pollAnswer cfg) ++ (okRead cfg w (evenParity w) ++ ans)) s) :
    (pollPower n s).Ends none
      fun t => At cfg image (l.play (pollsEv cfg qs ++ readOkEv cfg .dp 1 w (evenParity w))) ans t ∧ t.rdata = w := by
  obtain ⟨m, rfl⟩ : ∃ m, n = qs.length + (m + 1) := ⟨n - qs.length - 1, by omega⟩
  obtain ⟨t, ht, he⟩ := polls hd qs hq m h
  obtain rfl := ht.cfg
  have hx : dpRead 1 t = _ := xfer_read_script .dp 1 0 w _ ans t ht.target hd ht.answers
  have hok : (xferOk true (dpRead 1 t) && poweredUp (dpRead 1 t).cfg (dpRead 1 t).rdata) = true := by
    rw [hx, Bool.and_eq_true]
    exact ⟨xferOk_read rfl (parityAccepted_even _ _), hw⟩
  rw [he, pollPower_powered hok, hx, ← Log.play_play]
  exact .ok ⟨ht.afterRead .., rfl⟩

/-- The last poll allowed is unsuccessful as well: no delay after it. -/
theorem pollPower_timeout (hd : cfg.ackOk ≠ cfg.ackWait) {qs : List (BitVec 3 × Word)} {q : BitVec 3 × Word} {n : Nat}
    (hn : qs.length + 1 = n) (hq : ∀ x ∈ qs ++ [q], pollFails cfg x = true)
    (h : At cfg image l ((qs ++ [q]).flatMap (pollAnswer cfg) ++ ans) s) :
    (pollPower n s).Ends (some .powerUpTimeout) (At cfg image (l.play (pollsEv cfg qs ++ pollEv cfg q)) ans) := by
  subst hn
  rw [List.flatMap_append, List.flatMap_singleton, List.append_assoc] at h
  obtain ⟨t, ht, he⟩ := polls hd qs (fun x hx => hq x (by simp [hx])) 0 h
  obtain ⟨h₁, hfail⟩ := poll hd (hq q (by simp)) ht
  rw [he, pollPower_last hfail, ← Log.play_play]
  exact .raised h₁

theorem powerUp_ok (hd : cfg.ackOk ≠ cfg.ackWait) {qs : List (BitVec 3 × Word)} {w : Word}
    (hn : qs.length < cfg.nPoll) (hq : ∀ q ∈ qs, pollFails cfg q = true) (hw : poweredUp cfg w = true)
    (h : At cfg image l (okAcks cfg 1 ++ (qs.flatMap (pollAnswer cfg) ++ (okRead cfg w (evenParity w) ++ ans))) s) :
    (powerUp s).Ends none fun t => At cfg image (l.play (writeOkEv cfg .dp 1 cfg.pwrReq
      ++ (pollsEv cfg qs ++ readOkEv cfg .dp 1 w (evenParity w)))) ans t ∧ t.rdata = w := by
  rw [powerUp, h.cfg, ← Log.play_play]
  exact (write_ok _ .dp 1 _ hd h).andThen fun t ht => pollPower_ok hd (ht.cfg ▸ hn) hq hw ht

theorem powerUp_timeout (hd : cfg.ackOk ≠ cfg.ackWait) {qs : List (BitVec 3 × Word)} {q : BitVec 3 × Word}
    (hn : qs.length + 1 = cfg.nPoll) (hq : ∀ x ∈ qs ++ [q], pollFails cfg x = true)
    (h : At cfg image l (okAcks cfg 1 ++ ((qs ++ [q]).flatMap (pollAnswer cfg) ++ ans)) s) :
    (powerUp s).Ends (some .powerUpTimeout) (At cfg image (l.play (writeOkEv cfg .dp 1 cfg.pwrReq
      ++ (pollsEv cfg qs ++ pollEv cfg q))) ans) := by
  rw [powerUp, h.cfg, ← Log.play_play]
  exact (write_ok _ .dp 1 _ hd h).andThen fun t ht => pollPower_timeout hd (ht.cfg ▸ hn) hq ht

theorem powerUp_failing {k : BitVec 3} (hk : failingAck cfg k = true) (h : At cfg image l (bitsOf k ++ ans) s) :
    (powerUp s).Ends (some .powerUpTimeout) (At cfg image (l.play (notOkEv cfg .dp false 1 k)) ans) :=
  (failing _ .dp 1 _ hk h).skip

end At

/-- A state on its own script. -/
theorem at_self {s : State} (h : s.target = none) : At s.cfg s.image s.log s.answers s := ⟨rfl, rfl, h, rfl, rfl⟩

end Sys2Proof.Machine
end

section
/-!
PROOFS. The power sequencer.
-/

namespace Sys2Proof.Machine

/-- Settles O36: the unsuccessful polls go by one after another, and the next one decides. -/
theorem powerUpPollsUntilBothAcknowledges : Obligations.PowerUpPollsUntilBothAcknowledges := by
  unfold Obligations.PowerUpPollsUntilBothAcknowledges
  intro s rest ht hd
  have h₀ := at_self ht
  refine ⟨fun qs w hn hq hw h => ?_, fun qs q hn hq h => ?_, fun k hk h => ?_⟩
  · simp only [List.append_assoc] at h
    rw [h] at h₀
    obtain ⟨t, he, hat, hw⟩ := h₀.powerUp_ok hd hn hq hw
    refine ⟨_, congrArg (fun r => Host.Outcome.next (report r)) he, rfl, hw, hat.answers, ?_⟩
    simp only [List.append_assoc]
    exact congrArg Log.ev hat.log
  · simp only [List.append_assoc] at h
    rw [h] at h₀
    obtain ⟨t, he, hat⟩ := h₀.powerUp_timeout hd hn hq
    refine ⟨_, congrArg (fun r => Host.Outcome.next (report r)) he, rfl, hat.answers, ?_⟩
    simp only [List.append_assoc]
    exact congrArg Log.ev hat.log
  · rw [h] at h₀
    obtain ⟨t, he, hat⟩ := h₀.powerUp_failing hk
    exact ⟨_, congrArg (fun r => Host.Outcome.next (report r)) he, rfl, hat.answers, congrArg Log.ev hat.log⟩

end Sys2Proof.Machine
end

section
/-!
SUPPORT. The flash commands on a script: erase, write and verify, page by page and word by word (44_flash.md).
-/

namespace Sys2Proof.Machine

/-! ### Erases and word writes as memory writes. -/

theorem memWriteOr_eq_memWrites (e : ErrorKind) (addr data : Word) (s : State) :
    memWriteOr e addr data s = memWrites e [(addr, data)] s := by
  rw [memWrites]
  cases memWriteOr e addr data s <;> rfl

theorem memWrites_cons_andThen (e : ErrorKind) (w : Word × Word) (ws : List (Word × Word)) (s : State)
    (f : State → Res) :
    (memWrites e (w :: ws) s).andThen f = (memWriteOr e w.1 w.2 s).andThen fun t => (memWrites e ws t).andThen f :=
  Res.andThen_assoc _ _ _

/-- A mass erase is its two memory writes and the settle delay (R241). -/
theorem massErase_eq (s : State) :
    massErase s = (memWrites .eraseFailure (massEraseWrites s.cfg) s).andThen fun t =>
      .ok (delay t.cfg.tMassSettleUs t) := by
  rw [massErase, massEraseWrites, memWrites_cons_andThen]
  refine memWriteOr_andThen_congr fun t ht => ?_
  rw [memWrites_cons_andThen, ht]
  rfl

/-- A page erase is its four memory writes and the settle delay (R242). -/
theorem pageErase_eq (pa : Word) (s : State) :
    pageErase pa s = (memWrites .eraseFailure (pageEraseWrites s.cfg pa) s).andThen fun t =>
      .ok (delay t.cfg.tPageSettleUs t) := by
  rw [pageErase, pageEraseWrites, memWrites_cons_andThen]
  refine memWriteOr_andThen_congr fun t ht => ?_
  rw [memWrites_cons_andThen, ← ht]
  refine memWriteOr_andThen_congr fun u hu => ?_
  rw [memWrites_cons_andThen, ← hu]
  refine memWriteOr_andThen_congr fun v hv => ?_
  rw [memWrites_cons_andThen, ← hv]
  rfl

/-- The first two of the memory writes that program an image word: where it goes (R251). -/
def addressWrites (cfg : Params) (base : Word) (k : Nat) : List (Word × Word) :=
  [(mscAddrb cfg, wordAddr base k), (mscWritecmd cfg, cfg.cmdLaddrim)]

/-- The last two: the word and the trigger (R251). -/
def dataWrites (cfg : Params) (w : Word) : List (Word × Word) :=
  [(mscWdata cfg, w), (mscWritecmd cfg, cfg.cmdWritetrig)]

theorem writeWordWrites_eq (cfg : Params) (image : List Byte) (base len : Word) (k : Nat) :
    writeWordWrites cfg image base len k = addressWrites cfg base k ++ dataWrites cfg (wordOf image len.toNat k) := rfl

/-- Programming an image word is its four memory writes and the settle delay; the word is assembled between the second
and the third (R251). -/
theorem writeImageWord_eq (base len : Word) (k : Nat) (s : State) :
    writeImageWord base len k s
      = (memWrites .writeFailure (addressWrites s.cfg base k) { s with index := k }).andThen fun t =>
        (memWrites .writeFailure (dataWrites t.cfg (imageWord len k t)) (noteImageRead len k t)).andThen fun u =>
        .ok (delay u.cfg.tWordSettleUs u) := by
  rw [writeImageWord, addressWrites, memWrites_cons_andThen]
  refine memWriteOr_andThen_congr fun t ht => ?_
  have ht : t.cfg = s.cfg := ht
  rw [memWrites_cons_andThen, ← ht]
  refine memWriteOr_andThen_congr fun u _ => ?_
  rw [memWrites, Res.andThen_ok, dataWrites, memWrites_cons_andThen]
  refine memWriteOr_andThen_congr fun v hv => ?_
  have hv : v.cfg = u.cfg := hv
  rw [memWrites_cons_andThen, ← hv]
  rfl

/-! ### The events of memory writes, one list after another. -/

theorem memWritesEv_append (cfg : Params) (us ws : List (Word × Word)) :
    memWritesEv cfg (us ++ ws) = memWritesEv cfg us ++ memWritesEv cfg ws := List.flatMap_append

theorem memWritesEv_singleton (cfg : Params) (w : Word × Word) : memWritesEv cfg [w] = memWriteEv cfg w.1 w.2 :=
  List.flatMap_singleton ..

/-- A failure in the first list. -/
theorem failedWritesEv_append_left (cfg : Params) (us ws : List (Word × Word)) {m : Nat} (k : BitVec 3)
    (hm : m < 2 * us.length) : failedWritesEv cfg (us ++ ws) m k = failedWritesEv cfg us m k := by
  have hlen : (transactionsOf us).length = 2 * us.length := by simp [transactionsOf, Nat.mul_comm]
  rw [failedWritesEv, failedWritesEv, transactionsOf, List.flatMap_append,
    List.take_append_of_le_length (by rw [← transactionsOf, hlen]; omega), ← transactionsOf]

/-- A failure in the second list. -/
theorem failedWritesEv_append_right (cfg : Params) (us ws : List (Word × Word)) (m : Nat) (k : BitVec 3) :
    failedWritesEv cfg (us ++ ws) (2 * us.length + m) k = memWritesEv cfg us ++ failedWritesEv cfg ws m k := by
  induction us with
  | nil => rw [List.nil_append, List.length_nil, Nat.mul_zero, Nat.zero_add]; rfl
  | cons u us ih =>
    rw [List.cons_append, List.length_cons, Nat.mul_succ, Nat.add_right_comm, failedWritesEv_tail, ih,
      memWritesEv_cons, List.append_assoc]

/-! ### The reads of a verify. -/

theorem okMemReads_append (cfg : Params) (ws zs : List Word) :
    okMemReads cfg (ws ++ zs) = okMemReads cfg ws ++ okMemReads cfg zs := by
  induction ws with
  | nil => rfl
  | cons w ws ih => simp only [List.cons_append, okMemReads, ih, List.append_assoc]

theorem okMemReads_singleton (cfg : Params) (w : Word) :
    okMemReads cfg [w] = okAcks cfg 1 ++ okRead cfg w (evenParity w) := List.append_nil _

/-- One more word compared. -/
theorem mismatches_concat (image : List Byte) (len k : Nat) (ws : List Word) (w : Word) :
    mismatches image len k (ws ++ [w])
      = mismatches image len k ws + if w = wordOf image len (k + ws.length) then 0 else 1 := by
  induction ws generalizing k with
  | nil => simp [mismatches]
  | cons x ws ih =>
    rw [List.cons_append, mismatches, mismatches, ih, List.length_cons, Nat.add_assoc, Nat.add_assoc,
      Nat.add_comm 1 ws.length]

/-- The image's own words do not differ from it. -/
theorem mismatches_imageWords (image : List Byte) (len : Nat) (n : Nat) :
    mismatches image len 0 ((List.range n).map (wordOf image len)) = 0 := by
  induction n with
  | zero => rfl
  | succ n ih => simp [List.range_succ, mismatches_concat, ih]

theorem compareWord_of_eq {len : Word} {k : Nat} {w : Word} {s : State} (h : w = imageWord len k s) :
    compareWord len k w s = .ok s := by rw [compareWord, if_pos h]

theorem compareWord_of_ne {len : Word} {k : Nat} {w : Word} {s : State} (h : w ≠ imageWord len k s)
    (hle : s.errCount + 1 ≤ s.cfg.verifyMaxErr) :
    compareWord len k w s = .ok { s with errCount := s.errCount + 1 } := by
  rw [compareWord, if_neg h, if_neg (by omega)]

/-- One mismatch more than allowed ends the verify (R260). -/
theorem compareWord_of_max {len : Word} {k : Nat} {w : Word} {s : State} (h : w ≠ imageWord len k s)
    (hmax : s.errCount = s.cfg.verifyMaxErr) :
    compareWord len k w s = .raised .verifyFailure
      { s with errCount := s.errCount + 1, resData := BitVec.ofNat 32 (s.errCount + 1) } := by
  rw [compareWord, if_neg h, if_pos (by omega)]

namespace At

variable {cfg : Params} {image : List Byte} {l : Log} {ans : List Bool} {s : State} {k : BitVec 3}

/-- Another way to write the log. -/
theorem cast {l' : Log} (h : At cfg image l ans s) (hl : l = l') : At cfg image l' ans s := hl ▸ h

/-- `REG.index` is not followed. -/
theorem index (h : At cfg image l ans s) (i : Nat) : At cfg image l ans { s with index := i } := h.same rfl

theorem noteImageRead (h : At cfg image l ans s) (len : Word) (i : Nat) : At cfg image l ans (noteImageRead len i s) :=
  h.same rfl

/-- The word assembled of an image supplied whole (44_flash.md R250). -/
theorem imageWord_eq (h : At cfg image l ans s) {len : Word} (hlen : len.toNat ≤ image.length) (i : Nat) :
    imageWord len i s = wordOf image len.toNat i := by
  rw [imageWord_of_supplied len i s (h.image.symm ▸ hlen), h.image]

/-- The progress update after a word (R251, R260). -/
theorem strideProgress (h : At cfg image l ans s) (lo hi n i : Nat) :
    At cfg image (l.sets (if setsProgress cfg i then [wordProgress lo hi n i] else [])) ans
      (strideProgress lo hi n i s) := by
  unfold Machine.strideProgress
  rw [isProgressWord_eq, h.cfg]
  split_ifs
  · exact h.setProgress _
  · exact h.cast (Log.sets_nil l).symm

theorem startWrite (h : At cfg image l ans s) : At cfg image (l.sets [cfg.pEraseEnd]) ans (startWrite s) := by
  obtain rfl := h.cfg
  exact (h.setProgress s.cfg.pEraseEnd).index _

variable (hd : cfg.ackOk ≠ cfg.ackWait)
include hd

/-! ### Erase. -/

theorem massErase_ok (h : At cfg image l (okAcks cfg 4 ++ ans) s) :
    (massErase s).Ends none (At cfg image (l.play (massEraseEv cfg)) ans) := by
  rw [massErase_eq, h.cfg, massEraseEv, ← Log.play_play]
  exact (memWrites hd _ (massEraseWrites cfg) h).andThen fun t ht => .ok (ht.cfg ▸ ht.delay t.cfg.tMassSettleUs)

theorem massErase_failing (hk : failingAck cfg k = true) {m : Nat} (hm : m < 4)
    (h : At cfg image l (okAcks cfg m ++ bitsOf k ++ ans) s) :
    (massErase s).Ends (some .eraseFailure)
      (At cfg image (l.play (failedWritesEv cfg (massEraseWrites cfg) m k)) ans) := by
  rw [massErase_eq, h.cfg]
  exact (memWrites_failing hd _ (massEraseWrites cfg) hk hm h).skip

theorem pageErase_ok (pa : Word) (h : At cfg image l (okAcks cfg 8 ++ ans) s) :
    (pageErase pa s).Ends none (At cfg image (l.play (pageEraseEv cfg pa)) ans) := by
  rw [pageErase_eq, h.cfg, pageEraseEv, ← Log.play_play]
  exact (memWrites hd _ (pageEraseWrites cfg pa) h).andThen fun t ht => .ok (ht.cfg ▸ ht.delay t.cfg.tPageSettleUs)

theorem pageErase_failing (hk : failingAck cfg k = true) (pa : Word) {m : Nat}
    (hm : m < 8) (h : At cfg image l (okAcks cfg m ++ bitsOf k ++ ans) s) :
    (pageErase pa s).Ends (some .eraseFailure)
      (At cfg image (l.play (failedWritesEv cfg (pageEraseWrites cfg pa) m k)) ans) := by
  rw [pageErase_eq, h.cfg]
  exact (memWrites_failing hd _ (pageEraseWrites cfg pa) hk hm h).skip

/-- The first `i` pages erased, `n` left. -/
theorem erasePages_from (base : Word) (pages i n : Nat)
    (h : At cfg image l (okAcks cfg (8 * i) ++ ans) s) :
    ∃ t, At cfg image ((l.play (erasePagesEv cfg base i)).sets (pageValues cfg pages i)) ans t
      ∧ erasePages base pages (i + n) 0 s = erasePages base pages n i t := by
  induction i generalizing n ans with
  | zero => exact ⟨s, h.cast (by simp [erasePagesEv, pageValues, Log.play_nil, Log.sets_nil]), by simp⟩
  | succ i ih =>
    rw [Nat.mul_succ, okAcks_add, List.append_assoc] at h
    obtain ⟨t, ht, he⟩ := ih (n + 1) h
    obtain ⟨u, hpage, hu⟩ := pageErase_ok hd (pageAddr t.cfg base i) (ht.index i)
    refine ⟨_, (hu.setProgress (u.cfg.pEraseEnd * (i + 1) / pages)).cast ?_, ?_⟩
    · rw [Log.play_sets, Log.play_play, Log.sets_sets, pageValues_succ, hu.cfg, ht.cfg]
      simp [erasePagesEv, List.range_succ]
    · rw [Nat.add_right_comm, Nat.add_assoc, he, erasePages, hpage, Res.andThen_ok]

/-- A `FLASH_ERASE` all of whose transactions are acknowledged (R243). -/
theorem flashErase_ok (base len : Word)
    (h : At cfg image l (okAcks cfg (eraseAcks cfg base len) ++ ans) s) :
    (flashErase base len s).Ends none
      (At cfg image ((l.play (flashEraseEv cfg base len)).sets (eraseValues cfg base len)) ans) := by
  rw [flashErase, h.cfg]
  by_cases hm : wantsMassErase cfg base len = true
  · simp only [eraseAcks, flashEraseEv, eraseValues, if_pos hm] at h ⊢
    exact (massErase_ok hd h).andThen fun t ht => .ok (ht.cfg ▸ ht.setProgress t.cfg.pEraseEnd)
  · simp only [eraseAcks, flashEraseEv, eraseValues, if_neg hm] at h ⊢
    obtain ⟨t, ht, he⟩ := erasePages_from hd base (pageCount cfg len) (pageCount cfg len) 0 h
    rw [Nat.add_zero] at he
    rw [he, erasePages, Res.andThen_ok, ← Log.sets_sets]
    exact .ok (ht.cfg ▸ ht.setProgress t.cfg.pEraseEnd)

theorem flashErase_mass_failing (hk : failingAck cfg k = true) {base len : Word}
    (hmass : wantsMassErase cfg base len = true) {m : Nat} (hm : m < 4)
    (h : At cfg image l (okAcks cfg m ++ bitsOf k ++ ans) s) :
    (flashErase base len s).Ends (some .eraseFailure)
      (At cfg image (l.play (failedWritesEv cfg (massEraseWrites cfg) m k)) ans) := by
  rw [flashErase, h.cfg, if_pos hmass]
  exact (massErase_failing hd hk hm h).skip

/-- The erase of page `i` fails. -/
theorem flashErase_page_failing (hk : failingAck cfg k = true) {base len : Word}
    (hpages : wantsMassErase cfg base len = false) {i m : Nat} (hi : i < pageCount cfg len) (hm : m < 8)
    (h : At cfg image l (okAcks cfg (8 * i + m) ++ bitsOf k ++ ans) s) :
    (flashErase base len s).Ends (some .eraseFailure) (At cfg image
      ((l.play (erasePagesEv cfg base i ++ failedWritesEv cfg (pageEraseWrites cfg (pageAddr cfg base i)) m k)).sets
        (pageValues cfg (pageCount cfg len) i)) ans) := by
  rw [okAcks_add, List.append_assoc, List.append_assoc, ← List.append_assoc (okAcks cfg m)] at h
  obtain ⟨n, hn⟩ : ∃ n, pageCount cfg len = i + (n + 1) := ⟨pageCount cfg len - i - 1, by omega⟩
  obtain ⟨t, ht, he⟩ := erasePages_from hd base (pageCount cfg len) i (n + 1) h
  have haddr : pageAddr t.cfg base i = pageAddr cfg base i := by rw [ht.cfg]
  rw [← hn] at he
  rw [flashErase, h.cfg, hpages, if_neg Bool.false_ne_true, he, erasePages, haddr, ← Log.play_play]
  exact (pageErase_failing hd hk (pageAddr cfg base i) hm (ht.index i)).skip.skip

/-! ### Write. -/

theorem writeImageWord_ok {base len : Word} (hlen : len.toNat ≤ image.length) (i : Nat)
    (h : At cfg image l (okAcks cfg 8 ++ ans) s) :
    (writeImageWord base len i s).Ends none (At cfg image (l.play (writeWordEv cfg image base len i)) ans) := by
  rw [show 8 = 4 + 4 from rfl, okAcks_add, List.append_assoc] at h
  obtain rfl := h.cfg
  rw [writeImageWord_eq, writeWordEv, writeWordWrites_eq, memWritesEv_append, ← Log.play_play, ← Log.play_play]
  refine (memWrites hd _ (addressWrites s.cfg base i) (h.index i)).andThen fun t ht => ?_
  rw [ht.imageWord_eq hlen, ht.cfg]
  exact (memWrites hd _ (dataWrites s.cfg _) (ht.noteImageRead len i)).andThen fun u hu =>
    .ok (hu.cfg ▸ hu.delay u.cfg.tWordSettleUs)

theorem writeImageWord_failing (hk : failingAck cfg k = true) {base len : Word}
    (hlen : len.toNat ≤ image.length) (i : Nat) {m : Nat} (hm : m < 8)
    (h : At cfg image l (okAcks cfg m ++ bitsOf k ++ ans) s) :
    (writeImageWord base len i s).Ends (some .writeFailure)
      (At cfg image (l.play (failedWritesEv cfg (writeWordWrites cfg image base len i) m k)) ans) := by
  obtain rfl := h.cfg
  rw [writeImageWord_eq, writeWordWrites_eq]
  by_cases hlt : m < 4
  · rw [failedWritesEv_append_left _ (addressWrites s.cfg base i) _ _ hlt]
    exact (memWrites_failing hd _ (addressWrites s.cfg base i) hk hlt (h.index i)).skip
  · obtain ⟨j, rfl⟩ : ∃ j, m = 2 * (addressWrites s.cfg base i).length + j :=
      ⟨m - 4, (Nat.add_sub_cancel' (Nat.le_of_not_lt hlt)).symm⟩
    have hj : j < 4 := Nat.lt_of_add_lt_add_left (n := 4) hm
    rw [okAcks_add, List.append_assoc, List.append_assoc, ← List.append_assoc (okAcks s.cfg j)] at h
    rw [failedWritesEv_append_right, ← Log.play_play]
    refine (memWrites hd _ (addressWrites s.cfg base i) (h.index i)).andThen fun t ht => ?_
    rw [ht.imageWord_eq hlen, ht.cfg]
    exact (memWrites_failing hd _ (dataWrites s.cfg _) hk hj (ht.noteImageRead len i)).skip

/-- The first `i` words written, `m` left. -/
theorem writeWords_from {base len : Word} (hlen : len.toNat ≤ image.length) (n i m : Nat)
    (h : At cfg image l (okAcks cfg (8 * i) ++ ans) s) :
    ∃ t, At cfg image ((l.play ((List.range i).flatMap (writeWordEv cfg image base len))).sets
        (strideValues cfg cfg.pEraseEnd cfg.pWriteEnd n i)) ans t
      ∧ writeWords base len n (i + m) 0 s = writeWords base len n m i t := by
  induction i generalizing m ans with
  | zero => exact ⟨s, h.cast (by simp [strideValues, Log.play_nil, Log.sets_nil]), by simp⟩
  | succ i ih =>
    rw [Nat.mul_succ, okAcks_add, List.append_assoc] at h
    obtain ⟨t, ht, he⟩ := ih (m + 1) h
    obtain ⟨u, hword, hu⟩ := writeImageWord_ok hd (base := base) hlen i ht
    refine ⟨_, (hu.strideProgress u.cfg.pEraseEnd u.cfg.pWriteEnd n i).cast ?_, ?_⟩
    · rw [Log.play_sets, Log.play_play, Log.sets_sets, strideValues_succ, hu.cfg]
      simp [List.range_succ]
    · rw [Nat.add_right_comm, Nat.add_assoc, he, writeWords, hword, Res.andThen_ok]

/-- The enable write of `FLASH_WRITE` fails (R251). -/
theorem flashWrite_enable_failing (hk : failingAck cfg k = true) (base len : Word)
    {j : Nat} (hj : j < 2) (h : At cfg image l (okAcks cfg j ++ bitsOf k ++ ans) s) :
    (flashWrite base len s).Ends (some .writeFailure) (At cfg image
      ((l.play (failedWritesEv cfg [(mscWritectrl cfg, cfg.mscWren)] j k)).sets (writeValues cfg len 0)) ans) := by
  rw [flashWrite, memWriteOr_eq_memWrites, h.cfg]
  exact (memWrites_failing hd _ _ hk hj h.startWrite).skip

/-- After the enable write and the first `i` words, `m` left (R251). -/
theorem flashWrite_from {base len : Word} (hlen : len.toNat ≤ image.length) {i m : Nat}
    (hi : i + m = wordCount len) (h : At cfg image l (okAcks cfg (2 + 8 * i) ++ ans) s) :
    ∃ t, At cfg image ((l.play (writeWordsEv cfg image base len i)).sets (writeValues cfg len i)) ans t
      ∧ flashWrite base len s = (writeWords base len (wordCount len) m i t).andThen fun s =>
        .ok (Machine.setProgress s.cfg.pWriteEnd s) := by
  rw [okAcks_add, List.append_assoc] at h
  obtain ⟨t, henable, ht⟩ := memWrites hd .writeFailure [(mscWritectrl cfg, cfg.mscWren)] h.startWrite
  obtain ⟨u, hu, he⟩ := writeWords_from hd (base := base) hlen (wordCount len) i m ht
  refine ⟨u, hu.cast ?_, ?_⟩
  · rw [Log.play_sets, Log.play_sets, Log.play_play, Log.sets_sets, memWritesEv_singleton]
    rfl
  · rw [hi] at he
    rw [flashWrite, memWriteOr_eq_memWrites, h.cfg, henable, Res.andThen_ok, he]

theorem flashWrite_ok {base len : Word} (hlen : len.toNat ≤ image.length)
    (h : At cfg image l (okAcks cfg (2 + 8 * wordCount len) ++ ans) s) :
    (flashWrite base len s).Ends none (At cfg image ((l.play (flashWriteEv cfg image base len)).sets
      (writeValues cfg len (wordCount len) ++ [cfg.pWriteEnd])) ans) := by
  obtain ⟨t, ht, he⟩ := flashWrite_from hd (base := base) hlen (Nat.add_zero _) h
  rw [he, writeWords, Res.andThen_ok, ← Log.sets_sets]
  exact .ok (ht.cfg ▸ ht.setProgress t.cfg.pWriteEnd)

/-- A transaction of image word `i` fails (R251). -/
theorem flashWrite_word_failing (hk : failingAck cfg k = true) {base len : Word}
    (hlen : len.toNat ≤ image.length) {i j : Nat} (hi : i < wordCount len) (hj : j < 8)
    (h : At cfg image l (okAcks cfg (2 + 8 * i + j) ++ bitsOf k ++ ans) s) :
    (flashWrite base len s).Ends (some .writeFailure) (At cfg image
      ((l.play (writeWordsEv cfg image base len i
        ++ failedWritesEv cfg (writeWordWrites cfg image base len i) j k)).sets (writeValues cfg len i)) ans) := by
  rw [okAcks_add, List.append_assoc, List.append_assoc, ← List.append_assoc (okAcks cfg j)] at h
  obtain ⟨m, hm⟩ : ∃ m, i + (m + 1) = wordCount len := ⟨wordCount len - i - 1, by omega⟩
  obtain ⟨t, ht, he⟩ := flashWrite_from hd (base := base) hlen hm h
  rw [he, writeWords, ← Log.play_play]
  exact (writeImageWord_failing hd hk hlen i hj ht).skip.skip

/-! ### Verify. -/

/-- A word read back and taken to the comparison (R260). -/
theorem verifyImageWord_eq {base len : Word} {w : Word} (i : Nat)
    (h : At cfg image l (okAcks cfg 1 ++ okRead cfg w (evenParity w) ++ ans) s) :
    ∃ t, At cfg image (l.play (memReadEv cfg (wordAddr base i) w (evenParity w))) ans t ∧ t.errCount = s.errCount
      ∧ verifyImageWord base len i s = compareWord len i w t := by
  obtain rfl := h.cfg
  have hr := memRead_script (wordAddr base i) w _ ans { s with index := i } h.target hd (parityAccepted_even _ _)
    h.answers
  refine ⟨_, ((h.index i).afterRead .ap 3 _ ans w (evenParity w)).noteImageRead len i, rfl, ?_⟩
  rw [verifyImageWord, hr]

/-- A word compared without ending the verify. -/
theorem verifyImageWord_ok {base len : Word} (hlen : len.toNat ≤ image.length) {w : Word}
    (i : Nat) (hmax : s.errCount + (if w = wordOf image len.toNat i then 0 else 1) ≤ cfg.verifyMaxErr)
    (h : At cfg image l (okAcks cfg 1 ++ okRead cfg w (evenParity w) ++ ans) s) :
    (verifyImageWord base len i s).Ends none fun t =>
      At cfg image (l.play (memReadEv cfg (wordAddr base i) w (evenParity w))) ans t
        ∧ t.errCount = s.errCount + if w = wordOf image len.toNat i then 0 else 1 := by
  obtain ⟨t, ht, hc, he⟩ := verifyImageWord_eq hd (base := base) (len := len) i h
  rw [he]
  by_cases hw : w = wordOf image len.toNat i
  · rw [if_pos hw, compareWord_of_eq (by rw [ht.imageWord_eq hlen, hw])]
    exact .ok ⟨ht, hc⟩
  · rw [if_neg hw] at hmax ⊢
    rw [compareWord_of_ne (by rw [ht.imageWord_eq hlen]; exact hw) (by rw [hc, ht.cfg]; exact hmax), hc]
    exact .ok ⟨ht.same rfl, rfl⟩

/-- The mismatch that is one too many (R260). -/
theorem verifyImageWord_exceeds {base len : Word} (hlen : len.toNat ≤ image.length)
    {w : Word} (i : Nat) (hw : w ≠ wordOf image len.toNat i) (hmax : s.errCount = cfg.verifyMaxErr)
    (h : At cfg image l (okAcks cfg 1 ++ okRead cfg w (evenParity w) ++ ans) s) :
    (verifyImageWord base len i s).Ends (some .verifyFailure)
      (At cfg image (l.play (memReadEv cfg (wordAddr base i) w (evenParity w))) ans) := by
  obtain ⟨t, ht, hc, he⟩ := verifyImageWord_eq hd (base := base) (len := len) i h
  rw [he, compareWord_of_max (by rw [ht.imageWord_eq hlen]; exact hw) (by rw [hc, ht.cfg]; exact hmax)]
  exact .raised (ht.same rfl)

/-- Some words compared, `m` left. -/
theorem verifyWords_from {base len : Word} (hlen : len.toNat ≤ image.length) (n : Nat)
    (ws : List Word) (m : Nat) (hc : s.errCount = 0) (hmax : mismatches image len.toNat 0 ws ≤ cfg.verifyMaxErr)
    (h : At cfg image l (okMemReads cfg ws ++ ans) s) :
    ∃ t, At cfg image ((l.play (verifyReadsEv cfg base 0 ws)).sets
        (strideValues cfg cfg.pWriteEnd cfg.pVerifyEnd n ws.length)) ans t
      ∧ t.errCount = mismatches image len.toNat 0 ws
      ∧ verifyWords base len n (ws.length + m) 0 s = verifyWords base len n m ws.length t := by
  induction ws using List.reverseRecOn generalizing m ans with
  | nil => exact ⟨s, h.cast (by simp [verifyReadsEv, strideValues, Log.play_nil, Log.sets_nil]), hc, by simp⟩
  | append_singleton ws w ih =>
    rw [mismatches_concat, Nat.zero_add] at hmax
    rw [okMemReads_append, okMemReads_singleton, List.append_assoc] at h
    obtain ⟨t, ht, hct, he⟩ := ih (m + 1) (by omega) h
    rw [← hct] at hmax
    obtain ⟨u, hword, hu, hcu⟩ := verifyImageWord_ok hd (base := base) hlen ws.length hmax ht
    refine ⟨_, (hu.strideProgress u.cfg.pWriteEnd u.cfg.pVerifyEnd n ws.length).cast ?_, ?_, ?_⟩
    · rw [Log.play_sets, Log.play_play, Log.sets_sets, List.length_append, List.length_singleton, strideValues_succ,
        verifyReadsEv_append, Nat.zero_add, hu.cfg]
      simp [verifyReadsEv]
    · rw [strideProgress_errCount, hcu, hct, mismatches_concat, Nat.zero_add]
    · rw [List.length_append, List.length_singleton, Nat.add_right_comm, Nat.add_assoc, he, verifyWords, hword,
        Res.andThen_ok]

/-- After the start of a verify and some words compared, `m` left (R260). -/
theorem flashVerify_from {base len : Word} (hlen : len.toNat ≤ image.length)
    {ws : List Word} {m : Nat} (hn : ws.length + m = wordCount len)
    (hmax : mismatches image len.toNat 0 ws ≤ cfg.verifyMaxErr) (h : At cfg image l (okMemReads cfg ws ++ ans) s) :
    ∃ t, At cfg image ((l.play (verifyReadsEv cfg base 0 ws)).sets (verifyValues cfg len ws.length)) ans t
      ∧ t.errCount = mismatches image len.toNat 0 ws
      ∧ flashVerify base len s = (verifyWords base len (wordCount len) m ws.length t).andThen verifyEnd := by
  obtain rfl := h.cfg
  have hzero : At s.cfg image l _ { s with errCount := 0 } := h.same rfl
  obtain ⟨t, ht, hc, he⟩ :=
    verifyWords_from hd (base := base) hlen (wordCount len) ws m rfl hmax (hzero.setProgress s.cfg.pWriteEnd)
  refine ⟨t, ht.cast ?_, hc, ?_⟩
  · rw [Log.play_sets, Log.sets_sets]
    rfl
  · rw [hn] at he
    rw [flashVerify, he]

/-- All words compared, none of them ending the verify early. -/
theorem flashVerify_compared {base len : Word} (hlen : len.toNat ≤ image.length)
    {ws : List Word} (hn : ws.length = wordCount len)
    (hmax : mismatches image len.toNat 0 ws ≤ cfg.verifyMaxErr) (h : At cfg image l (okMemReads cfg ws ++ ans) s) :
    ∃ t, At cfg image ((l.play (verifyReadsEv cfg base 0 ws)).sets (verifyValues cfg len (wordCount len))) ans t
      ∧ t.errCount = mismatches image len.toNat 0 ws ∧ flashVerify base len s = verifyEnd t := by
  obtain ⟨t, ht, hc, he⟩ := flashVerify_from hd (base := base) hlen ((Nat.add_zero _).trans hn) hmax h
  exact ⟨t, hn ▸ ht, hc, he⟩

theorem flashVerify_ok {base len : Word} (hlen : len.toNat ≤ image.length)
    (h : At cfg image l (okMemReads cfg (imageWords image len) ++ ans) s) :
    (flashVerify base len s).Ends none (At cfg image ((l.play (verifyReadsEv cfg base 0 (imageWords image len))).sets
      (verifyValues cfg len (wordCount len) ++ [cfg.pVerifyEnd])) ans) := by
  have hzero : mismatches image len.toNat 0 (imageWords image len) = 0 := mismatches_imageWords _ _ _
  obtain ⟨t, ht, hc, he⟩ := flashVerify_compared hd (base := base) hlen (by simp [imageWords])
    (hzero.trans_le (Nat.zero_le _)) h
  rw [he, verifyEnd, if_pos (hc.trans hzero), ← Log.sets_sets]
  have hdata : At cfg image _ ans { t with resData := BitVec.ofNat 32 t.errCount } := ht.same rfl
  exact .ok (ht.cfg ▸ hdata.setProgress t.cfg.pVerifyEnd)

/-- Mismatches at the end of the verify (R260). -/
theorem flashVerify_mismatches {base len : Word} (hlen : len.toNat ≤ image.length)
    {ws : List Word} (hn : ws.length = wordCount len) (hne : mismatches image len.toNat 0 ws ≠ 0)
    (hmax : mismatches image len.toNat 0 ws ≤ cfg.verifyMaxErr) (h : At cfg image l (okMemReads cfg ws ++ ans) s) :
    (flashVerify base len s).Ends (some .verifyFailure)
      (At cfg image ((l.play (verifyReadsEv cfg base 0 ws)).sets (verifyValues cfg len (wordCount len))) ans) := by
  obtain ⟨t, ht, hc, he⟩ := flashVerify_compared hd (base := base) hlen hn hmax h
  rw [he, verifyEnd, if_neg (hc ▸ hne)]
  exact .raised (ht.same rfl)

/-- The mismatch that exceeds `VERIFY_MAX_ERR` (R260). -/
theorem flashVerify_exceeds {base len : Word} (hlen : len.toNat ≤ image.length)
    {ws : List Word} {z : Word} (hn : ws.length < wordCount len)
    (hmax : mismatches image len.toNat 0 ws = cfg.verifyMaxErr) (hz : z ≠ wordOf image len.toNat ws.length)
    (h : At cfg image l (okMemReads cfg (ws ++ [z]) ++ ans) s) :
    (flashVerify base len s).Ends (some .verifyFailure) (At cfg image
      ((l.play (verifyReadsEv cfg base 0 (ws ++ [z]))).sets (verifyValues cfg len ws.length)) ans) := by
  rw [okMemReads_append, okMemReads_singleton, List.append_assoc] at h
  obtain ⟨m, hm⟩ : ∃ m, ws.length + (m + 1) = wordCount len := ⟨wordCount len - ws.length - 1, by omega⟩
  obtain ⟨t, ht, hc, he⟩ := flashVerify_from hd (base := base) hlen hm hmax.le h
  have hlast := verifyImageWord_exceeds hd (base := base) hlen ws.length hz (hc.trans hmax) ht
  rw [he, verifyWords, verifyReadsEv_append, Nat.zero_add, ← Log.play_play]
  exact (hlast.imp fun u hu => hu.cast (by simp [verifyReadsEv, Log.play_sets])).skip.skip

end At

end Sys2Proof.Machine
end

section
/-!
SUPPORT. A run on a script: how far the answers take it, component by component, and how it aborts
(45_status_orchestrator.md R300, R301).
-/

namespace Sys2Proof.Machine

/-! ### The log of a run. -/

/-- The log of a run that started in `s`, after some events and notifications; its progress is the last one notified, 0
before any. -/
def runLog (s : State) (evs : List PinEvent) (notes : List Note) : Log :=
  ⟨s.ev ++ evs, s.note ++ notes, (progressOf notes).getLastD 0⟩

section
variable (s : State) (evs : List PinEvent)

theorem runLog_play (xs : List PinEvent) (notes : List Note) :
    (runLog s evs notes).play xs = runLog s (evs ++ xs) notes := by simp [runLog, Log.play]

theorem runLog_status (notes : List Note) (v : Status) :
    (runLog s evs notes).status v = runLog s evs (notes ++ [.status v]) := by simp [runLog, Log.status, progressOf]

/-- The last value notified is the last value set (44_flash.md R240). -/
theorem progressOf_progressNotes_getLastD (p : Nat) (vals : List Nat) :
    (progressOf (progressNotes p vals)).getLastD p = vals.getLastD p := by
  induction vals generalizing p with
  | nil => rfl
  | cons q vals ih =>
    rw [progressNotes, progressOf_append, getLastD_append, List.getLastD_cons]
    by_cases h : q = p
    · subst h; simpa [progressOf] using ih q
    · simpa [progressOf, h] using ih q

/-- Setting the progress adds its notifications to those after some point, from the progress there on. -/
theorem runLog_sets {notes : List Note} {p : Nat} (hp : (progressOf notes).getLastD 0 = p) (vals ws : List Nat) :
    (runLog s evs (notes ++ progressNotes p vals)).sets ws = runLog s evs (notes ++ progressNotes p (vals ++ ws)) := by
  simp only [runLog, Log.sets, progressOf_append, getLastD_append, hp, progressOf_progressNotes_getLastD,
    progressNotes_append, List.append_assoc]

theorem runLog_sets_programming (vals ws : List Nat) :
    (runLog s evs (programmingNotes vals)).sets ws = runLog s evs (programmingNotes (vals ++ ws)) :=
  runLog_sets s evs rfl vals ws

theorem runLog_sets_verifying (cfg : Params) (base len : Word) (vals ws : List Nat) :
    (runLog s evs (verifyingNotes cfg base len vals)).sets ws
      = runLog s evs (verifyingNotes cfg base len (vals ++ ws)) := by
  refine runLog_sets s evs ?_ vals ws
  rw [progressOf_append, getLastD_append, programmingNotes, progressOf_append, getLastD_append]
  change (progressOf (progressNotes 0 _)).getLastD 0 = _
  rw [progressOf_progressNotes_getLastD, List.getLastD_concat]

end

/-! ### The components of a run, each with what follows it (45_status_orchestrator.md R300). -/

/-- A run from `FLASH_VERIFY` on; the others are named likewise. -/
def runFromVerify (base len : Word) (s : State) : Res :=
  (flashVerify base len (setStatus .verifying s)).andThen cpuReset

def runFromWrite (base len : Word) (s : State) : Res := (flashWrite base len s).andThen (runFromVerify base len)

def runFromErase (base len : Word) (s : State) : Res :=
  (flashErase base len (setStatus .programming s)).andThen (runFromWrite base len)

def runFromHalt (base len : Word) (s : State) : Res := (cpuHalt s).andThen (runFromErase base len)

/-- A run from the CSW write of `AP_CONFIG` on. -/
def runFromCsw (base len : Word) (s : State) : Res :=
  (checkXfer false .apConfigFailure (xfer .ap false 0 s.cfg.cswValue s)).andThen (runFromHalt base len)

/-- A run from the second SELECT of `AP_CONFIG` on. -/
def runFromSelect (base len : Word) (s : State) : Res :=
  (checkXfer false .apConfigFailure (xfer .dp false 2 s.cfg.selBank0 (deviceParameters s))).andThen
    (runFromCsw base len)

/-- A run from the IDR read of `AP_CONFIG` on. -/
def runFromIdr (base len : Word) (s : State) : Res := (takeIdr s).andThen (runFromSelect base len)

def runFromPort (base len : Word) (s : State) : Res :=
  (checkXfer false .apConfigFailure (xfer .dp false 2 s.cfg.selIdrBank (ensureSession s))).andThen (runFromIdr base len)

def runFromPower (base len : Word) (s : State) : Res := (powerUp s).andThen (runFromPort base len)

theorem configurePort_andThen (base len : Word) (s : State) :
    (configurePort s).andThen (runFromHalt base len) = runFromSelect base len s := Res.andThen_assoc _ _ _

theorem apConfig_andThen (base len : Word) (s : State) :
    (apConfig s).andThen (runFromHalt base len) = runFromPort base len s := by
  simp only [apConfig_eq, Res.andThen_assoc, configurePort_andThen]
  rfl

theorem runSteps_eq (base len : Word) (s : State) :
    runSteps base len s = (linkInit s).andThen (runFromPower base len) := by
  have h : runSteps base len s = (linkInit s).andThen fun s => (powerUp s).andThen fun s =>
      (apConfig s).andThen (runFromHalt base len) := rfl
  simp only [h, apConfig_andThen]
  rfl

/-! ### How far a run gets. -/

/-- The run of `s` comes to `f` after some events and notifications, with the answers `rest` left. -/
def RunReaches (s : State) (f : Word → Word → State → Res) (evs : List PinEvent) (notes : List Note)
    (rest : List Bool) : Prop :=
  ∃ t, At s.cfg s.image (runLog s evs notes) rest t
    ∧ runSteps s.argAddr s.argLen (startRun s) = f s.argAddr s.argLen t

/-- The run of `s` aborts with the kind `e`, after some notifications and events, with the answers `rest` left
(45_status_orchestrator.md R301). -/
def RunAborts (s : State) (rest : List Bool) (e : ErrorKind) (notes : List Note) (evs : List PinEvent) : Prop :=
  ∃ t, exec .run s = .next t ∧ t.answers = rest ∧ t.status = .error ∧ t.resKind = .error e
    ∧ t.lastError = some e ∧ t.session = none ∧ t.runActive = false
    ∧ t.progress = (progressOf notes).getLastD 0
    ∧ t.note = s.note ++ notes ++ [.status .error] ∧ t.ev = s.ev ++ evs

theorem exec_run_of_idle {s : State} (h : s.runActive = false) :
    exec .run s = .next (endRun (runSteps s.argAddr s.argLen (startRun s))) := by
  change Host.Outcome.next (run s) = _
  rw [run, if_neg (by simp [h])]

/-- The abort after a kind was raised (R301). -/
theorem runAborts_of_raised {s t : State} {rest : List Bool} {e : ErrorKind} {notes : List Note} {evs : List PinEvent}
    (hr : s.runActive = false) (he : runSteps s.argAddr s.argLen (startRun s) = .raised e t)
    (ht : At s.cfg s.image (runLog s evs notes) rest t) : RunAborts s rest e notes evs := by
  refine ⟨_, exec_run_of_idle hr, ?_⟩
  rw [he]
  exact ⟨ht.answers, rfl, rfl, rfl, rfl, rfl, congrArg Log.progress ht.log,
    congrArg (· ++ [Note.status Status.error]) (congrArg Log.note ht.log), congrArg Log.ev ht.log⟩

namespace RunReaches

variable {s : State} {evs evs' : List PinEvent} {notes notes' : List Note} {rest rest' : List Bool}
  {f g : Word → Word → State → Res}

/-- Whatever `f` is there decides how the run goes on. -/
theorem next (h : RunReaches s f evs notes rest)
    (hf : ∀ t, At s.cfg s.image (runLog s evs notes) rest t →
      ∃ u, At s.cfg s.image (runLog s evs' notes') rest' u ∧ f s.argAddr s.argLen t = g s.argAddr s.argLen u) :
    RunReaches s g evs' notes' rest' := by
  obtain ⟨t, ht, he⟩ := h
  obtain ⟨u, hu, hfu⟩ := hf t ht
  exact ⟨u, hu, he.trans hfu⟩

/-- A component that succeeds brings the run to what follows it. -/
theorem step {c : State → Res} (h : RunReaches s f evs notes rest)
    (hc : ∀ t, f s.argAddr s.argLen t = (c t).andThen (g s.argAddr s.argLen))
    (hok : ∀ t, At s.cfg s.image (runLog s evs notes) rest t →
      (c t).Ends none (At s.cfg s.image (runLog s evs' notes') rest')) :
    RunReaches s g evs' notes' rest' :=
  h.next fun t ht => by
    obtain ⟨u, hu, hat⟩ := hok t ht
    exact ⟨u, hat, by rw [hc, hu, Res.andThen_ok]⟩

/-- A component that issues some events and notifies nothing. -/
theorem step_play {c : State → Res} {xs : List PinEvent} (h : RunReaches s f evs notes rest)
    (hc : ∀ t, f s.argAddr s.argLen t = (c t).andThen (g s.argAddr s.argLen))
    (hok : ∀ t, At s.cfg s.image (runLog s evs notes) rest t →
      (c t).Ends none (At s.cfg s.image ((runLog s evs notes).play xs) rest')) :
    RunReaches s g (evs ++ xs) notes rest' :=
  h.step hc (runLog_play s evs xs notes ▸ hok)

theorem ends {e : ErrorKind} {P : State → Prop} (h : RunReaches s f evs notes rest)
    (hf : ∀ t, At s.cfg s.image (runLog s evs notes) rest t → (f s.argAddr s.argLen t).Ends (some e) P) :
    (runSteps s.argAddr s.argLen (startRun s)).Ends (some e) P := by
  obtain ⟨t, ht, he⟩ := h
  exact he ▸ hf t ht

/-- A component that raises a kind aborts the run. -/
theorem aborts {e : ErrorKind} (hr : s.runActive = false) (h : RunReaches s f evs notes rest)
    (hf : ∀ t, At s.cfg s.image (runLog s evs notes) rest t →
      (f s.argAddr s.argLen t).Ends (some e) (At s.cfg s.image (runLog s evs' notes') rest')) :
    RunAborts s rest' e notes' evs' := by
  obtain ⟨t, he, ht⟩ := h.ends hf
  exact runAborts_of_raised hr he ht

/-- A component that issues some events and then raises a kind. -/
theorem aborts_play {e : ErrorKind} {xs : List PinEvent} (hr : s.runActive = false) (h : RunReaches s f evs notes rest)
    (hf : ∀ t, At s.cfg s.image (runLog s evs notes) rest t →
      (f s.argAddr s.argLen t).Ends (some e) (At s.cfg s.image ((runLog s evs notes).play xs) rest')) :
    RunAborts s rest' e notes (evs ++ xs) := h.aborts hr (runLog_play s evs xs notes ▸ hf)

end RunReaches

/-! ### The connection (42_link_power_ap_cpu.md R173, R180, R190). -/

namespace At

variable {cfg : Params} {image : List Byte} {l : Log} {x : Word} {ans : List Bool} {s : State}

theorem takeIdr_unlocked (hd : cfg.ackOk ≠ cfg.ackWait) (hx : x ≠ cfg.idrLocked)
    (h : At cfg image l (okRead cfg x (evenParity x) ++ ans) s) :
    (takeIdr s).Ends none (At cfg image (l.play (readOkEv cfg .ap 3 x (evenParity x))) ans) := by
  refine (h.read_ok _ .ap 3 0 hd).andThen fun u ⟨hu, hw⟩ => ?_
  have hopen : u.rdata ≠ u.cfg.idrLocked := by rw [hw, hu.cfg]; exact hx
  rw [checkLocked_of_not_locked (s := Machine.acceptIdr u) hopen]
  exact .ok hu.acceptIdr

theorem takeIdr_locked (hd : cfg.ackOk ≠ cfg.ackWait) (hx : x = cfg.idrLocked)
    (h : At cfg image l (okRead cfg x (evenParity x) ++ ans) s) :
    (takeIdr s).Ends (some .debugLocked) fun u =>
      At cfg image (l.play (readOkEv cfg .ap 3 x (evenParity x))) ans u ∧ u.resData = cfg.idrLocked := by
  refine (h.read_ok _ .ap 3 0 hd).andThen fun u ⟨hu, hw⟩ => ?_
  have hlocked : u.rdata = u.cfg.idrLocked := by rw [hw, hu.cfg]; exact hx
  rw [checkLocked_of_locked (s := Machine.acceptIdr u) hlocked]
  exact .raised ⟨hu.acceptIdr, hw.trans hx⟩

end At

theorem connectingEv_zero (cfg : Params) (w v x : Word) : connectingEv cfg w v x 0 = linkSequenceEv cfg :=
  List.append_nil _

theorem connectingAnswers_zero (cfg : Params) (w v x : Word) : connectingAnswers cfg w v x 0 = [] := rfl

section
variable {s : State} {w v x : Word} {ans : List Bool}

theorem run_reaches_link (ht : s.target = none) :
    RunReaches s runSteps [] [.status .initializing] s.answers :=
  ⟨startRun s, ⟨rfl, rfl, ht, rfl, by simp [State.log, startRun, runLog, progressOf, State.ev]⟩, rfl⟩

variable (ht : s.target = none) (hd : s.cfg.ackOk ≠ s.cfg.ackWait)
include ht hd

/-- The IDCODE is read. -/
theorem run_reaches_power (h : s.answers = connectingAnswers s.cfg w v x 1 ++ ans) :
    RunReaches s runFromPower (connectingEv s.cfg w v x 1) [.status .initializing] ans := by
  have hstart := run_reaches_link ht
  rw [h, connectingAnswers_succ _ _ _ _ 0 _ rfl] at hstart
  rw [connectingEv_succ _ _ _ _ 0 _ rfl, connectingEv_zero]
  exact hstart.step_play (runSteps_eq _ _) fun t ht => ht.linkInit_ok hd

/-- The first poll shows both acknowledges. -/
theorem run_reaches_port (hv : poweredUp s.cfg v = true) (hn : 0 < s.cfg.nPoll)
    (h : s.answers = connectingAnswers s.cfg w v x 3 ++ ans) :
    RunReaches s runFromPort (connectingEv s.cfg w v x 3) [.status .initializing] ans := by
  rw [connectingAnswers_succ _ _ _ _ 2 _ rfl, connectingAnswers_succ _ _ _ _ 1 _ rfl, List.append_assoc,
    List.append_assoc] at h
  rw [connectingEv_succ _ _ _ _ 2 _ rfl, connectingEv_succ _ _ _ _ 1 _ rfl, List.append_assoc]
  exact (run_reaches_power ht hd h).step_play (fun _ => rfl) fun t ht =>
    (ht.powerUp_ok (qs := []) hd hn (by simp) hv).imp fun u hu => hu.1

/-- The first SELECT is written. -/
theorem run_reaches_idr (hv : poweredUp s.cfg v = true) (hn : 0 < s.cfg.nPoll)
    (h : s.answers = connectingAnswers s.cfg w v x 4 ++ ans) :
    RunReaches s runFromIdr (connectingEv s.cfg w v x 4) [.status .initializing] ans := by
  rw [connectingAnswers_succ _ _ _ _ 3 _ rfl, List.append_assoc] at h
  rw [connectingEv_succ _ _ _ _ 3 _ rfl]
  exact (run_reaches_port ht hd hv hn h).step_play (fun _ => rfl) fun t ht => by
    rw [ht.cfg]
    exact ht.ensureSession.write_ok _ .dp 2 _ hd

/-- The IDR read passes the lock test where it is not `IDR_LOCKED`. -/
theorem run_reaches_select (hv : poweredUp s.cfg v = true) (hn : 0 < s.cfg.nPoll) (hx : x ≠ s.cfg.idrLocked)
    (h : s.answers = connectingAnswers s.cfg w v x 5 ++ ans) :
    RunReaches s runFromSelect (connectingEv s.cfg w v x 5) [.status .initializing] ans := by
  rw [connectingAnswers_succ _ _ _ _ 4 _ rfl, List.append_assoc] at h
  rw [connectingEv_succ _ _ _ _ 4 _ rfl]
  exact (run_reaches_idr ht hd hv hn h).step_play (fun _ => rfl) fun t ht => ht.takeIdr_unlocked hd hx

/-- The second SELECT is written. -/
theorem run_reaches_csw (hv : poweredUp s.cfg v = true) (hn : 0 < s.cfg.nPoll) (hx : x ≠ s.cfg.idrLocked)
    (h : s.answers = connectingAnswers s.cfg w v x 6 ++ ans) :
    RunReaches s runFromCsw (connectingEv s.cfg w v x 6) [.status .initializing] ans := by
  rw [connectingAnswers_succ _ _ _ _ 5 _ rfl, List.append_assoc] at h
  rw [connectingEv_succ _ _ _ _ 5 _ rfl]
  exact (run_reaches_select ht hd hv hn hx h).step_play (fun _ => rfl) fun t ht => by
    rw [ht.cfg]
    exact ht.deviceParameters.write_ok _ .dp 2 _ hd

/-- The access port is configured. -/
theorem run_reaches_halt (hv : poweredUp s.cfg v = true) (hn : 0 < s.cfg.nPoll) (hx : x ≠ s.cfg.idrLocked)
    (h : s.answers = connectingAnswers s.cfg w v x 7 ++ ans) :
    RunReaches s runFromHalt (connectingEv s.cfg w v x 7) [.status .initializing] ans := by
  rw [connectingAnswers_succ _ _ _ _ 6 _ rfl, List.append_assoc] at h
  rw [connectingEv_succ _ _ _ _ 6 _ rfl]
  exact (run_reaches_csw ht hd hv hn hx h).step_play (fun _ => rfl) fun t ht => by
    rw [ht.cfg]
    exact ht.write_ok _ .ap 0 _ hd

/-- A transaction of the connection fails: each of the link, the power request and the access port, all but the poll. -/
theorem run_aborts_connecting {k : BitVec 3} {rest : List Bool} (hr : s.runActive = false)
    (hk : failingAck s.cfg k = true) {m : Nat} {y : Sent} (hy : (connection s.cfg w v x)[m]? = some y) (hm : m ≠ 2)
    (hpower : 2 < m → poweredUp s.cfg v = true ∧ 0 < s.cfg.nPoll) (hlock : 4 < m → x ≠ s.cfg.idrLocked)
    (h : s.answers = connectingAnswers s.cfg w v x m ++ bitsOf k ++ rest) :
    RunAborts s rest (if m = 0 then .linkInitFailure else if m = 1 then .powerUpTimeout else .apConfigFailure)
      [.status .initializing] (connectingEv s.cfg w v x m ++ notOkEv s.cfg y.port y.rnw y.a k) := by
  rw [List.append_assoc] at h
  match m, hy with
  | 0, rfl =>
    have hlink := run_reaches_link ht
    rw [h, connectingAnswers_zero] at hlink
    rw [connectingEv_zero]
    refine RunReaches.aborts_play (evs := []) (xs := linkSequenceEv s.cfg ++ notOkEv s.cfg .dp true 0 k) hr hlink
      fun t ht => ?_
    rw [runSteps_eq]
    exact (ht.linkInit_failing hk).skip
  | 1, rfl => exact (run_reaches_power ht hd h).aborts_play hr fun t ht => (ht.powerUp_failing hk).skip
  | 2, _ => exact absurd rfl hm
  | 3, rfl =>
    obtain ⟨hv, hn⟩ := hpower (by omega)
    exact (run_reaches_port ht hd hv hn h).aborts_play hr fun t ht => (ht.ensureSession.failing _ .dp 2 _ hk).skip
  | 4, rfl =>
    obtain ⟨hv, hn⟩ := hpower (by omega)
    exact (run_reaches_idr ht hd hv hn h).aborts_play hr fun t ht => (ht.failing _ .ap 3 0 hk).skip.skip
  | 5, rfl =>
    obtain ⟨hv, hn⟩ := hpower (by omega)
    exact (run_reaches_select ht hd hv hn (hlock (by omega)) h).aborts_play hr fun t ht =>
      (ht.deviceParameters.failing _ .dp 2 _ hk).skip
  | 6, rfl =>
    obtain ⟨hv, hn⟩ := hpower (by omega)
    exact (run_reaches_csw ht hd hv hn (hlock (by omega)) h).aborts_play hr fun t ht => (ht.failing _ .ap 0 _ hk).skip

/-- No poll shows both acknowledges. -/
theorem run_aborts_unpowered {rest : List Bool} (hr : s.runActive = false) {qs : List (BitVec 3 × Word)}
    {q : BitVec 3 × Word} (hn : qs.length + 1 = s.cfg.nPoll) (hq : ∀ z ∈ qs ++ [q], pollFails s.cfg z = true)
    (h : s.answers = connectingAnswers s.cfg w v x 2 ++ (qs ++ [q]).flatMap (pollAnswer s.cfg) ++ rest) :
    RunAborts s rest .powerUpTimeout [.status .initializing] (connectingEv s.cfg w v x 2
      ++ qs.flatMap (fun z => pollEv s.cfg z ++ [.delay s.cfg.tPollUs]) ++ pollEv s.cfg q) := by
  rw [connectingAnswers_succ _ _ _ _ 1 _ rfl, List.append_assoc, List.append_assoc] at h
  rw [connectingEv_succ _ _ _ _ 1 _ rfl, List.append_assoc, List.append_assoc]
  exact (run_reaches_power ht hd h).aborts_play hr fun t ht => (ht.powerUp_timeout hd hn hq).skip

/-- A locked part ends the run; `RES_DATA` is the IDR (R191, 60_exceptions.md R330). -/
theorem run_aborts_locked {rest : List Bool} (hr : s.runActive = false) (hv : poweredUp s.cfg v = true)
    (hn : 0 < s.cfg.nPoll) (hx : x = s.cfg.idrLocked) (h : s.answers = connectingAnswers s.cfg w v x 5 ++ rest) :
    RunAborts s rest .debugLocked [.status .initializing] (connectingEv s.cfg w v x 5)
      ∧ ∀ t, exec .run s = .next t → t.resData = s.cfg.idrLocked := by
  rw [connectingAnswers_succ _ _ _ _ 4 _ rfl, List.append_assoc] at h
  rw [connectingEv_succ _ _ _ _ 4 _ rfl]
  obtain ⟨u, hu, hat, hdata⟩ := (run_reaches_idr ht hd hv hn h).ends fun t ht =>
    (ht.takeIdr_locked hd hx).skip
  refine ⟨runAborts_of_raised hr hu (hat.cast (runLog_play s _ _ _)), fun t he => ?_⟩
  rw [exec_run_of_idle hr, hu] at he
  cases he
  exact hdata

end

/-! ### Halt, erase, write, verify and reset (45_status_orchestrator.md R300). -/

namespace At

variable {s : State} {evs : List PinEvent} {ans : List Bool} {t : State} {cfg : Params} {image : List Byte} {l : Log}
  {k : BitVec 3}

theorem cpuHalt_ok (hd : cfg.ackOk ≠ cfg.ackWait) (h : At cfg image l (okAcks cfg 6 ++ ans) s) :
    (cpuHalt s).Ends none (At cfg image (l.play (memWritesEv cfg (haltWrites cfg))) ans) := by
  rw [cpuHalt_eq_memWrites, h.cfg]
  exact memWrites hd _ (haltWrites cfg) h

theorem cpuHalt_failing (hd : cfg.ackOk ≠ cfg.ackWait) (hk : failingAck cfg k = true) {m : Nat} (hm : m < 6)
    (h : At cfg image l (okAcks cfg m ++ bitsOf k ++ ans) s) :
    (cpuHalt s).Ends (some .haltFailure)
      (At cfg image (l.play (failedWritesEv cfg (haltWrites cfg) m k)) ans) := by
  rw [cpuHalt_eq_memWrites, h.cfg]
  exact memWrites_failing hd _ (haltWrites cfg) hk hm h

theorem cpuReset_failing (hd : cfg.ackOk ≠ cfg.ackWait) (hk : failingAck cfg k = true) {m : Nat} (hm : m < 2)
    (h : At cfg image l (okAcks cfg m ++ bitsOf k ++ ans) s) :
    (cpuReset s).Ends (some .haltFailure)
      (At cfg image (l.play (failedWritesEv cfg [(cfg.aircrAddr, cfg.aircrReset)] m k)) ans) := by
  rw [cpuReset_eq_memWrites, h.cfg]
  exact memWrites_failing hd _ _ hk hm h

/-- The start of the programming phase. -/
theorem programming (h : At cfg image (runLog s evs [.status .initializing]) ans t) :
    At cfg image (runLog s evs (programmingNotes [])) ans (Machine.setStatus .programming t) :=
  (h.setStatus .programming).cast (runLog_status ..)

/-- The start of the verifying phase. -/
theorem verifying {base len : Word} (h : At cfg image (runLog s evs (programmingNotes
      (eraseValues cfg base len ++ (writeValues cfg len (wordCount len) ++ [cfg.pWriteEnd])))) ans t) :
    At cfg image (runLog s evs (verifyingNotes cfg base len [])) ans (Machine.setStatus .verifying t) :=
  (h.setStatus .verifying).cast (by simp [runLog_status, verifyingNotes, progressNotes])

/-- Events and progress of the programming phase. -/
theorem cast_programming {vals ws : List Nat} {xs : List PinEvent}
    (h : At cfg image (((runLog s evs (programmingNotes vals)).play xs).sets ws) ans t) :
    At cfg image (runLog s (evs ++ xs) (programmingNotes (vals ++ ws))) ans t :=
  h.cast (by rw [runLog_play, runLog_sets_programming])

/-- Events and progress of the verifying phase. -/
theorem cast_verifying {base len : Word} {vals : List Nat} {xs : List PinEvent}
    (h : At cfg image (((runLog s evs (verifyingNotes cfg base len [])).play xs).sets vals) ans t) :
    At cfg image (runLog s (evs ++ xs) (verifyingNotes cfg base len vals)) ans t :=
  h.cast (by rw [runLog_play, runLog_sets_verifying, List.nil_append])

end At

section
variable {s : State} {w v x : Word} {ans rest : List Bool} {k : BitVec 3} (ht : s.target = none)
  (hd : s.cfg.ackOk ≠ s.cfg.ackWait) (hr : s.runActive = false) (hk : failingAck s.cfg k = true)
  (hv : poweredUp s.cfg v = true) (hn : 0 < s.cfg.nPoll) (hx : x ≠ s.cfg.idrLocked)

section
include ht hd hv hn hx

theorem run_reaches_erase (h : s.answers = connectingAnswers s.cfg w v x 7 ++ (okAcks s.cfg 6 ++ ans)) :
    RunReaches s runFromErase (haltedEv s.cfg w v x) [.status .initializing] ans :=
  (run_reaches_halt ht hd hv hn hx h).step_play (fun _ => rfl) fun _ ht => ht.cpuHalt_ok hd

theorem run_reaches_write
    (h : s.answers = connectingAnswers s.cfg w v x 7
      ++ (okAcks s.cfg (6 + eraseAcks s.cfg s.argAddr s.argLen) ++ ans)) :
    RunReaches s runFromWrite (erasedEv s.cfg w v x s.argAddr s.argLen)
      (programmingNotes (eraseValues s.cfg s.argAddr s.argLen)) ans := by
  rw [okAcks_add, List.append_assoc] at h
  exact (run_reaches_erase ht hd hv hn hx h).step (fun _ => rfl) fun t ht =>
    (ht.programming.flashErase_ok hd s.argAddr s.argLen).imp fun u hu => hu.cast_programming

theorem run_reaches_verify (hlen : s.argLen.toNat ≤ s.image.length)
    (h : s.answers = connectingAnswers s.cfg w v x 7
      ++ (okAcks s.cfg (6 + eraseAcks s.cfg s.argAddr s.argLen + 2 + 8 * wordCount s.argLen) ++ ans)) :
    RunReaches s runFromVerify (writtenEv s.cfg w v x s.image s.argAddr s.argLen)
      (programmingNotes (eraseValues s.cfg s.argAddr s.argLen
        ++ (writeValues s.cfg s.argLen (wordCount s.argLen) ++ [s.cfg.pWriteEnd]))) ans := by
  rw [Nat.add_assoc _ 2, okAcks_add, List.append_assoc] at h
  exact (run_reaches_write ht hd hv hn hx h).step (fun _ => rfl) fun t ht =>
    (ht.flashWrite_ok hd hlen).imp fun u hu => hu.cast_programming

theorem run_reaches_reset (hlen : s.argLen.toNat ≤ s.image.length)
    (h : s.answers = connectingAnswers s.cfg w v x 7
      ++ (okAcks s.cfg (6 + eraseAcks s.cfg s.argAddr s.argLen + 2 + 8 * wordCount s.argLen)
        ++ (okMemReads s.cfg (imageWords s.image s.argLen) ++ ans))) :
    RunReaches s (fun _ _ => cpuReset)
      (writtenEv s.cfg w v x s.image s.argAddr s.argLen
        ++ verifyReadsEv s.cfg s.argAddr 0 (imageWords s.image s.argLen))
      (verifyingNotes s.cfg s.argAddr s.argLen
        (verifyValues s.cfg s.argLen (wordCount s.argLen) ++ [s.cfg.pVerifyEnd])) ans :=
  (run_reaches_verify ht hd hv hn hx hlen h).step (fun _ => rfl) fun _ ht =>
    (ht.verifying.flashVerify_ok hd hlen).imp fun _ hu => hu.cast_verifying

end

include ht hd hr hv hn hx

/-- The verify ends with mismatches. -/
theorem run_aborts_mismatching (hlen : s.argLen.toNat ≤ s.image.length) {ws : List Word}
    (hws : ws.length = wordCount s.argLen) (hne : mismatches s.image s.argLen.toNat 0 ws ≠ 0)
    (hmax : mismatches s.image s.argLen.toNat 0 ws ≤ s.cfg.verifyMaxErr)
    (h : s.answers = connectingAnswers s.cfg w v x 7
      ++ okAcks s.cfg (6 + eraseAcks s.cfg s.argAddr s.argLen + 2 + 8 * wordCount s.argLen)
      ++ okMemReads s.cfg ws ++ rest) :
    RunAborts s rest .verifyFailure
      (verifyingNotes s.cfg s.argAddr s.argLen (verifyValues s.cfg s.argLen (wordCount s.argLen)))
      (writtenEv s.cfg w v x s.image s.argAddr s.argLen ++ verifyReadsEv s.cfg s.argAddr 0 ws) := by
  rw [List.append_assoc, List.append_assoc] at h
  exact (run_reaches_verify ht hd hv hn hx hlen h).aborts hr fun t ht =>
    ((ht.verifying.flashVerify_mismatches hd hlen hws hne hmax).imp fun u hu => hu.cast_verifying).skip

/-- One mismatch exceeds `VERIFY_MAX_ERR`. -/
theorem run_aborts_exceeding (hlen : s.argLen.toNat ≤ s.image.length) {ws : List Word} {z : Word}
    (hws : ws.length < wordCount s.argLen)
    (hmax : mismatches s.image s.argLen.toNat 0 ws = s.cfg.verifyMaxErr)
    (hz : z ≠ wordOf s.image s.argLen.toNat ws.length)
    (h : s.answers = connectingAnswers s.cfg w v x 7
      ++ okAcks s.cfg (6 + eraseAcks s.cfg s.argAddr s.argLen + 2 + 8 * wordCount s.argLen)
      ++ okMemReads s.cfg (ws ++ [z]) ++ rest) :
    RunAborts s rest .verifyFailure
      (verifyingNotes s.cfg s.argAddr s.argLen (verifyValues s.cfg s.argLen ws.length))
      (writtenEv s.cfg w v x s.image s.argAddr s.argLen ++ verifyReadsEv s.cfg s.argAddr 0 (ws ++ [z])) := by
  rw [List.append_assoc, List.append_assoc] at h
  exact (run_reaches_verify ht hd hv hn hx hlen h).aborts hr fun t ht =>
    ((ht.verifying.flashVerify_exceeds hd hlen hws hmax hz).imp fun u hu => hu.cast_verifying).skip

include hk

/-- A transaction of `CPU_HALT` fails. -/
theorem run_aborts_halting {m : Nat} (hm : m < 6)
    (h : s.answers = connectingAnswers s.cfg w v x 7 ++ okAcks s.cfg m ++ bitsOf k ++ rest) :
    RunAborts s rest .haltFailure [.status .initializing]
      (connectingEv s.cfg w v x 7 ++ failedWritesEv s.cfg (haltWrites s.cfg) m k) := by
  rw [List.append_assoc, List.append_assoc, ← List.append_assoc (okAcks _ _)] at h
  exact (run_reaches_halt ht hd hv hn hx h).aborts_play hr fun t ht => (ht.cpuHalt_failing hd hk hm).skip

/-- A transaction of the mass erase fails. -/
theorem run_aborts_mass_erasing (hmass : wantsMassErase s.cfg s.argAddr s.argLen = true) {m : Nat} (hm : m < 4)
    (h : s.answers = connectingAnswers s.cfg w v x 7 ++ okAcks s.cfg (6 + m) ++ bitsOf k ++ rest) :
    RunAborts s rest .eraseFailure (programmingNotes [])
      (haltedEv s.cfg w v x ++ failedWritesEv s.cfg (massEraseWrites s.cfg) m k) := by
  rw [okAcks_add] at h
  simp only [List.append_assoc] at h
  rw [← List.append_assoc (okAcks _ m)] at h
  exact (run_reaches_erase ht hd hv hn hx h).aborts hr fun t ht =>
    ((ht.programming.flashErase_mass_failing hd hk hmass hm).imp fun u hu => hu.cast (runLog_play ..)).skip

/-- A transaction of the erase of page `i` fails. -/
theorem run_aborts_page_erasing (hpages : wantsMassErase s.cfg s.argAddr s.argLen = false) {i m : Nat}
    (hi : i < pageCount s.cfg s.argLen) (hm : m < 8)
    (h : s.answers = connectingAnswers s.cfg w v x 7 ++ okAcks s.cfg (6 + 8 * i + m) ++ bitsOf k ++ rest) :
    RunAborts s rest .eraseFailure (programmingNotes (pageValues s.cfg (pageCount s.cfg s.argLen) i))
      (haltedEv s.cfg w v x ++ erasePagesEv s.cfg s.argAddr i
        ++ failedWritesEv s.cfg (pageEraseWrites s.cfg (pageAddr s.cfg s.argAddr i)) m k) := by
  rw [Nat.add_assoc 6, okAcks_add] at h
  simp only [List.append_assoc] at h
  rw [← List.append_assoc (okAcks _ (8 * i + m))] at h
  rw [List.append_assoc]
  exact (run_reaches_erase ht hd hv hn hx h).aborts hr fun t ht =>
    ((ht.programming.flashErase_page_failing hd hk hpages hi hm).imp fun u hu => hu.cast_programming).skip

/-- A transaction of the enable write fails. -/
theorem run_aborts_enabling {j : Nat} (hj : j < 2)
    (h : s.answers = connectingAnswers s.cfg w v x 7
      ++ okAcks s.cfg (6 + eraseAcks s.cfg s.argAddr s.argLen + j) ++ bitsOf k ++ rest) :
    RunAborts s rest .writeFailure
      (programmingNotes (eraseValues s.cfg s.argAddr s.argLen ++ writeValues s.cfg s.argLen 0))
      (erasedEv s.cfg w v x s.argAddr s.argLen
        ++ failedWritesEv s.cfg [(mscWritectrl s.cfg, s.cfg.mscWren)] j k) := by
  rw [okAcks_add] at h
  simp only [List.append_assoc] at h
  rw [← List.append_assoc (okAcks _ j)] at h
  exact (run_reaches_write ht hd hv hn hx h).aborts hr fun t ht =>
    ((ht.flashWrite_enable_failing hd hk s.argAddr s.argLen hj).imp fun u hu => hu.cast_programming).skip

/-- A transaction of image word `i` fails. -/
theorem run_aborts_writing (hlen : s.argLen.toNat ≤ s.image.length) {i j : Nat} (hi : i < wordCount s.argLen)
    (hj : j < 8)
    (h : s.answers = connectingAnswers s.cfg w v x 7
      ++ okAcks s.cfg (6 + eraseAcks s.cfg s.argAddr s.argLen + 2 + 8 * i + j) ++ bitsOf k ++ rest) :
    RunAborts s rest .writeFailure
      (programmingNotes (eraseValues s.cfg s.argAddr s.argLen ++ writeValues s.cfg s.argLen i))
      (erasedEv s.cfg w v x s.argAddr s.argLen ++ writeWordsEv s.cfg s.image s.argAddr s.argLen i
        ++ failedWritesEv s.cfg (writeWordWrites s.cfg s.image s.argAddr s.argLen i) j k) := by
  rw [Nat.add_assoc, Nat.add_assoc, ← Nat.add_assoc 2, okAcks_add] at h
  simp only [List.append_assoc] at h
  rw [← List.append_assoc (okAcks _ (2 + 8 * i + j))] at h
  rw [List.append_assoc]
  exact (run_reaches_write ht hd hv hn hx h).aborts hr fun t ht =>
    ((ht.flashWrite_word_failing hd hk hlen hi hj).imp fun u hu => hu.cast_programming).skip

/-- A transaction of `CPU_RESET` fails. -/
theorem run_aborts_resetting (hlen : s.argLen.toNat ≤ s.image.length) {j : Nat} (hj : j < 2)
    (h : s.answers = connectingAnswers s.cfg w v x 7
      ++ okAcks s.cfg (6 + eraseAcks s.cfg s.argAddr s.argLen + 2 + 8 * wordCount s.argLen)
      ++ okMemReads s.cfg (imageWords s.image s.argLen) ++ okAcks s.cfg j ++ bitsOf k ++ rest) :
    RunAborts s rest .haltFailure
      (verifyingNotes s.cfg s.argAddr s.argLen
        (verifyValues s.cfg s.argLen (wordCount s.argLen) ++ [s.cfg.pVerifyEnd]))
      (writtenEv s.cfg w v x s.image s.argAddr s.argLen
        ++ verifyReadsEv s.cfg s.argAddr 0 (imageWords s.image s.argLen)
        ++ failedWritesEv s.cfg [(s.cfg.aircrAddr, s.cfg.aircrReset)] j k) := by
  simp only [List.append_assoc] at h
  rw [← List.append_assoc (okAcks _ j)] at h
  exact (run_reaches_reset ht hd hv hn hx hlen h).aborts_play hr fun t ht => ht.cpuReset_failing hd hk hj

end

end Sys2Proof.Machine
end

section
/-!
PROOFS. The abort of a run.
-/

namespace Sys2Proof.Machine

/-- Settles O57: the answers take the run to the component that fails, and its kind aborts it there. -/
theorem runsAbortAtTheFirstFailure : Obligations.RunsAbortAtTheFirstFailure := by
  unfold Obligations.RunsAbortAtTheFirstFailure
  intro s rest w v x k ht hd hr hk aborts words
  refine ⟨fun m y hy hm hpower hlock h => ?connecting, fun qs q hn hq h => ?unpowered, fun hv hn =>
    ⟨fun hx h => ?locked, fun hx => ?unlocked⟩⟩
  case connecting => exact run_aborts_connecting ht hd hr hk hy hm hpower hlock h
  case unpowered => exact run_aborts_unpowered ht hd hr hn hq h
  case locked => exact run_aborts_locked ht hd hr hv hn hx h
  case unlocked =>
    intro sent erased
    refine ⟨fun m hm h => ?halt, fun hmass m hm h => ?mass, fun hpages i hi m hm h => ?page, fun j hj h => ?enable,
      fun hlen => ⟨fun i hi j hj h => ?word, fun ws hws hne hmax h => ?mismatch, fun ws z hws hmax hz h => ?exceed,
        fun j hj h => ?reset⟩⟩
    case halt => exact run_aborts_halting ht hd hr hk hv hn hx hm h
    case mass => exact run_aborts_mass_erasing ht hd hr hk hv hn hx hmass hm h
    case page => exact run_aborts_page_erasing ht hd hr hk hv hn hx hpages hi hm h
    case enable => exact run_aborts_enabling ht hd hr hk hv hn hx hj h
    case word => exact run_aborts_writing ht hd hr hk hv hn hx hlen hi hj h
    case mismatch => exact run_aborts_mismatching ht hd hr hv hn hx hlen hws hne hmax h
    case exceed => exact run_aborts_exceeding ht hd hr hv hn hx hlen hws hmax hz h
    case reset => exact run_aborts_resetting ht hd hr hk hv hn hx hlen hj h

end Sys2Proof.Machine
end

section
/-!
SUPPORT. `MEM_READ` and `MEM_WRITE` on a script: what the commands make of a memory access, and what an access leaves
whose transactions fail (43_memory_access.md R220, R222).
-/

namespace Sys2Proof.Machine

theorem exec_memRead (s : State) :
    exec .memRead s = .next { (memRead s.argAddr s).st with
      resData := (memRead s.argAddr s).word, resKind := if (memRead s.argAddr s).pass then .ok else .nack } := rfl

theorem exec_memWrite (s : State) :
    exec .memWrite s = .next { (memWrite s.argAddr s.argData s).2 with
      resKind := if (memWrite s.argAddr s.argData s).1 then .ok else .nack } := rfl

/-! ### Writes: `memWriteOr` raises its kind exactly where the write fails. -/

theorem memWrite_of_memWriteOr_ok {e : ErrorKind} {addr data : Word} {s t : State}
    (h : memWriteOr e addr data s = .ok t) : memWrite addr data s = (true, t) := by
  unfold memWriteOr at h
  split at h
  · next hpass => exact Prod.ext hpass (Res.ok.inj h)
  · cases h

theorem memWrite_of_memWriteOr_raised {e : ErrorKind} {addr data : Word} {s t : State}
    (h : memWriteOr e addr data s = .raised e t) : memWrite addr data s = (false, t) := by
  unfold memWriteOr at h
  split at h
  · cases h
  · next hfail => exact Prod.ext (Bool.eq_false_of_not_eq_true hfail) (Res.raised.inj h).2

/-- A `MemWrite` whose TAR write alone is acknowledged. -/
theorem failedWritesEv_drw (cfg : Params) (addr data : Word) (k : BitVec 3) :
    failedWritesEv cfg [(addr, data)] 1 k = writeOkEv cfg .ap 1 addr ++ notOkEv cfg .ap false 3 k := by
  simp [failedWritesEv, transactionsOf, tarOrDrw]

theorem exec_memWrite_of_ok {e : ErrorKind} {s t : State} (h : memWriteOr e s.argAddr s.argData s = .ok t) :
    exec .memWrite s = .next { t with resKind := .ok } := by
  rw [exec_memWrite, memWrite_of_memWriteOr_ok h]
  rfl

theorem exec_memWrite_of_raised {e : ErrorKind} {s t : State} (h : memWriteOr e s.argAddr s.argData s = .raised e t) :
    exec .memWrite s = .next { t with resKind := .nack } := by
  rw [exec_memWrite, memWrite_of_memWriteOr_raised h]
  rfl

/-! ### Reads. -/

theorem exec_memRead_of_pass {s t : State} {w : Word} (h : memRead s.argAddr s = ⟨true, w, t⟩) :
    exec .memRead s = .next { t with resData := w, resKind := .ok } := by
  rw [exec_memRead, h]
  rfl

theorem exec_memRead_of_fail {s t : State} (h : memRead s.argAddr s = ⟨false, sentinel, t⟩) :
    exec .memRead s = .next { t with resData := 0xFFFFFFFF, resKind := .nack } := by
  rw [exec_memRead, h]
  rfl

/-- A `MemRead` whose TAR write fails asks nothing more of the target (R220). -/
theorem memRead_unaddressed {addr : Word} {k : BitVec 3} {rest : List Bool} {s : State} (ht : s.target = none)
    (hk : failingAck s.cfg k = true) (h : s.answers = bitsOf k ++ rest) :
    memRead addr s = ⟨false, sentinel, afterWrite .ap 1 (notOkEv s.cfg .ap false 1 k) rest k s⟩ := by
  have hfail : xferOk false (afterWrite .ap 1 (notOkEv s.cfg .ap false 1 k) rest k s) = false :=
    xferOk_of_ack_ne (ack_ne_of_failing hk)
  simp only [memRead, apWrite, xfer_write_failing .ap 1 addr k rest s ht hk h, hfail, Bool.false_eq_true, if_false]

/-- A `MemRead` whose TAR write is acknowledged is its DRW read (R220). -/
theorem memRead_addressed {addr : Word} {rest : List Bool} {s : State} (ht : s.target = none)
    (hd : s.cfg.ackOk ≠ s.cfg.ackWait) (h : s.answers = okAcks s.cfg 1 ++ rest) {t : State}
    (hr : xfer .ap true 3 0 (afterWrite .ap 1 (writeOkEv s.cfg .ap 1 addr) rest s.cfg.ackOk s) = t) :
    memRead addr s = if xferOk true t then ⟨true, t.rdata, t⟩ else ⟨false, sentinel, t⟩ := by
  have hok : xferOk false (afterWrite .ap 1 (writeOkEv s.cfg .ap 1 addr) rest s.cfg.ackOk s) = true := xferOk_write rfl
  simp only [memRead, apWrite, apRead, xfer_write_script .ap 1 addr rest s ht hd h, hok, hr, if_true]

/-- A `MemRead` whose word comes with a wrong parity bit under `CHECK` gives the sentinel (41_transaction.md R143). -/
theorem memRead_parity {addr w : Word} {p : Bool} {rest : List Bool} {s : State} (ht : s.target = none)
    (hd : s.cfg.ackOk ≠ s.cfg.ackWait) (hp : parityAccepted s.cfg w p = false)
    (h : s.answers = okAcks s.cfg 1 ++ okRead s.cfg w p ++ rest) :
    memRead addr s = ⟨false, sentinel, afterRead .ap 3 (memReadEv s.cfg addr w p) rest w p s⟩ := by
  have hr := xfer_read_script .ap 3 0 w p rest
    (afterWrite .ap 1 (writeOkEv s.cfg .ap 1 addr) (okRead s.cfg w p ++ rest) s.cfg.ackOk s) ht hd rfl
  rw [afterRead_afterWrite] at hr
  have hfail : xferOk true (afterRead .ap 3 (memReadEv s.cfg addr w p) rest w p s) = false :=
    (xferOk_read_eq rfl).trans hp
  rw [memRead_addressed ht hd (by rw [h, List.append_assoc]) hr]
  exact if_neg (Bool.eq_false_iff.1 hfail)

end Sys2Proof.Machine
end

section
/-!
SUPPORT. A verify whose DRW reads all fail: each word read is the sentinel (43_memory_access.md R221, 44_flash.md R261).
-/

namespace Sys2Proof.Machine

/-- The events of a memory read of image word `i` whose DRW read is answered with `k`. -/
def unreadWordEv (cfg : Params) (base : Word) (k : BitVec 3) (i : Nat) : List PinEvent :=
  writeOkEv cfg .ap 1 (wordAddr base i) ++ notOkEv cfg .ap true 3 k

/-- The answers to `n` memory reads whose DRW read is answered with `k`. -/
def unreadAnswers (cfg : Params) (k : BitVec 3) (n : Nat) : List Bool :=
  (List.replicate n (okAcks cfg 1 ++ bitsOf k)).flatten

theorem unreadAnswers_succ (cfg : Params) (k : BitVec 3) (n : Nat) :
    unreadAnswers cfg k (n + 1) = unreadAnswers cfg k n ++ (okAcks cfg 1 ++ bitsOf k) := by
  simp [unreadAnswers, List.replicate_succ']

namespace At

variable {cfg : Params} {image : List Byte} {l : Log} {ans : List Bool} {s : State} {k : BitVec 3}
variable {base len : Word}

theorem afterFailedRead (h : At cfg image l ans s) (port : Port) (a : BitVec 2) (evs : List PinEvent)
    (rest : List Bool) (k : BitVec 3) : At cfg image (l.play evs) rest (afterFailedRead port a evs rest k s) :=
  (h.answered evs rest).same rfl

/-- A failed read of a word expected as the sentinel is no mismatch (R261). -/
theorem verifyImageWord_unread (hd : cfg.ackOk ≠ cfg.ackWait) (hk : failingAck cfg k = true)
    (hlen : len.toNat ≤ image.length) {i : Nat} (hword : wordOf image len.toNat i = sentinel)
    (h : At cfg image l (okAcks cfg 1 ++ bitsOf k ++ ans) s) :
    (verifyImageWord base len i s).Ends none fun t =>
      At cfg image (l.play (unreadWordEv cfg base k i)) ans t ∧ t.errCount = s.errCount := by
  obtain rfl := h.cfg
  have hread := memRead_failing (wordAddr base i) k ans { s with index := i } h.target hd hk h.answers
  have ht := ((h.index i).afterFailedRead .ap 3 (unreadWordEv s.cfg base k i) ans k).noteImageRead len i
  rw [verifyImageWord, hread]
  exact ⟨_, compareWord_of_eq ((ht.imageWord_eq hlen i).trans hword).symm, ht, rfl⟩

/-- The first `i` words read in vain, `m` left. -/
theorem verifyWords_unread (hd : cfg.ackOk ≠ cfg.ackWait) (hk : failingAck cfg k = true)
    (hlen : len.toNat ≤ image.length) (n : Nat) {i : Nat} (m : Nat)
    (hwords : ∀ j < i, wordOf image len.toNat j = sentinel)
    (h : At cfg image l (unreadAnswers cfg k i ++ ans) s) :
    ∃ t, At cfg image ((l.play ((List.range i).flatMap (unreadWordEv cfg base k))).sets
        (strideValues cfg cfg.pWriteEnd cfg.pVerifyEnd n i)) ans t
      ∧ t.errCount = s.errCount ∧ verifyWords base len n (i + m) 0 s = verifyWords base len n m i t := by
  induction i generalizing m ans with
  | zero => exact ⟨s, h.cast (by simp [strideValues, Log.play_nil, Log.sets_nil]), rfl, by simp⟩
  | succ i ih =>
    rw [unreadAnswers_succ, List.append_assoc] at h
    obtain ⟨t, ht, hct, he⟩ := ih (m + 1) (fun j hj => hwords j (by omega)) h
    obtain ⟨u, hword, hu, hcu⟩ := verifyImageWord_unread (base := base) hd hk hlen (hwords i (by omega)) ht
    refine ⟨_, (hu.strideProgress u.cfg.pWriteEnd u.cfg.pVerifyEnd n i).cast ?_, ?_, ?_⟩
    · rw [Log.play_sets, Log.play_play, Log.sets_sets, strideValues_succ, hu.cfg]
      simp [List.range_succ]
    · rw [strideProgress_errCount, hcu, hct]
    · rw [Nat.add_right_comm, Nat.add_assoc, he, verifyWords, hword, Res.andThen_ok]

/-- All words read in vain, each expected as the sentinel: no mismatch is counted (R261). -/
theorem flashVerify_unread (hd : cfg.ackOk ≠ cfg.ackWait) (hk : failingAck cfg k = true)
    (hlen : len.toNat ≤ image.length) (hwords : ∀ j < wordCount len, wordOf image len.toNat j = sentinel)
    (h : At cfg image l (unreadAnswers cfg k (wordCount len) ++ ans) s) :
    (flashVerify base len s).Ends none fun t => t.resData = 0
      ∧ At cfg image ((l.play ((List.range (wordCount len)).flatMap (unreadWordEv cfg base k))).sets
        (verifyValues cfg len (wordCount len) ++ [cfg.pVerifyEnd])) ans t := by
  obtain rfl := h.cfg
  have hzero : At s.cfg image l _ { s with errCount := 0 } := h.same rfl
  obtain ⟨t, ht, hc, he⟩ := verifyWords_unread (base := base) hd hk hlen (wordCount len) 0 hwords
    (hzero.setProgress s.cfg.pWriteEnd)
  have hnone : t.errCount = 0 := hc
  have hend : At s.cfg image _ ans { t with resData := BitVec.ofNat 32 t.errCount } := ht.same rfl
  rw [Nat.add_zero] at he
  rw [flashVerify, he, verifyWords, Res.andThen_ok, verifyEnd, if_pos hnone]
  refine .ok ⟨congrArg (BitVec.ofNat 32) hnone, (hend.setProgress t.cfg.pVerifyEnd).cast ?_⟩
  rw [Log.play_sets, Log.sets_sets, Log.sets_sets, ht.cfg]
  rfl

end At

end Sys2Proof.Machine
end

section
/-!
PROOFS. The statements about memory access, and the verify of words whose reads fail.
-/

namespace Sys2Proof.Machine

/-- Settles O39: the two accesses on a script, each with what its command reports. -/
theorem memoryAccessGoesThroughTarAndDrw : Obligations.MemoryAccessGoesThroughTarAndDrw := by
  unfold Obligations.MemoryAccessGoesThroughTarAndDrw
  intro s rest ht hd
  refine ⟨fun w p hp h => ?read, fun h => ?write⟩
  case read => exact exec_memRead_of_pass (memRead_script s.argAddr w p rest s ht hd hp h)
  case write => exact exec_memWrite_of_ok (memWriteOr_script .haltFailure s.argAddr s.argData rest s ht hd h)

/-- Settles O40: the TAR write fails, the DRW access fails, the word read has a wrong parity bit. -/
theorem memoryAccessFailures : Obligations.MemoryAccessFailures := by
  unfold Obligations.MemoryAccessFailures
  intro s k rest ht hd hk
  have write {m : Nat} (hm : m < 2) (h : s.answers = okAcks s.cfg m ++ bitsOf k ++ rest) :=
    exec_memWrite_of_raised (memWriteOr_failing .haltFailure s.argAddr s.argData m k rest s ht hd hk hm h)
  refine ⟨fun h => ⟨?tarRead, ?tarWrite⟩, fun h => ⟨?drwRead, ?drwWrite⟩, fun w p hp h => ?parity⟩
  case tarRead => exact exec_memRead_of_fail (memRead_unaddressed ht hk h)
  case tarWrite => exact write (m := 0) (by decide) h
  case drwRead => exact exec_memRead_of_fail (memRead_failing s.argAddr k rest s ht hd hk h)
  case drwWrite =>
    rw [← failedWritesEv_drw s.cfg s.argAddr s.argData k]
    exact write (m := 1) (by decide) h
  case parity => exact exec_memRead_of_fail (memRead_parity ht hd hp h)

/-- Settles O41: the write leaves its word at its address, and the read takes the word there. -/
theorem referenceTargetReadsBackWhatIsWritten : Obligations.ReferenceTargetReadsBackWhatIsWritten := by
  unfold Obligations.ReferenceTargetReadsBackWhatIsWritten
  intro s r hr hm hi hb hd ha
  have hload := fun b => r.load_memWritten s.cfg s.argAddr s.argData b ha (hm r hr)
  obtain ⟨hinject, hselect, -⟩ := r.memWritten_rest s.cfg s.argAddr s.argData
  have hwrite := exec_memWrite_of_ok (memWriteOr_target .haltFailure s.argAddr s.argData r s hr hi hd)
  have hread := memRead_target s.argAddr (r.memWritten s.cfg s.argAddr s.argData)
    { afterTarget (r.memWritten s.cfg s.argAddr s.argData)
      (afterWrite .ap 3 (memWriteEv s.cfg s.argAddr s.argData) [] s.cfg.ackOk s) with resKind := .ok }
    rfl (hinject.trans hi) hd (hselect ▸ hb)
  exact ⟨_, _, _, _, hwrite, rfl, exec_memRead_of_pass hread, rfl, (hload s.argAddr).trans (if_pos rfl), rfl, rfl,
    fun b hne => (hload b).trans (if_neg hne), rfl⟩

/-- Settles O49: each failed read gives the sentinel, which is the word expected. -/
theorem failedReadsOfErasedWordsVerify : Obligations.FailedReadsOfErasedWordsVerify := by
  unfold Obligations.FailedReadsOfErasedWordsVerify
  intro s k rest ht hd hlen hk hwords h
  have hs : At s.cfg s.image s.log (unreadAnswers s.cfg k (wordCount s.argLen) ++ rest) s := ⟨rfl, rfl, ht, h, rfl⟩
  obtain ⟨t, he, hdata, hend⟩ := hs.flashVerify_unread (base := s.argAddr) hd hk hlen hwords
  have hexec : exec .flashVerify s = .next (report (flashVerify s.argAddr s.argLen s)) := rfl
  rw [he] at hexec
  exact ⟨_, hexec, rfl, hdata, hend.answers, congrArg Log.ev hend.log⟩

end Sys2Proof.Machine
end

section
/-!
SUPPORT. The flash commands on a script, further: the bytes of an image word, and in what state a command stops that
fails or ends early (44_flash.md, 60_exceptions.md R330).
-/

namespace Sys2Proof.Machine

/-- Byte `i` of an image word, counted from its low end, is byte `4k + i` of the padded image (44_flash.md R250). -/
theorem assembleWord_byte (missing : Nat → Byte) (image : List Byte) (len k : Nat) {i : Nat} (hi : i < 4) :
    (assembleWord missing image len k).extractLsb' (8 * i) 8 = imageByte missing image len (4 * k + i) := by
  have above {n : Nat} (x : BitVec n) (y : Byte) (a : Nat) (ha : 8 ≤ a) :
      (x ++ y).extractLsb' a 8 = x.extractLsb' (a - 8) 8 := BitVec.extractLsb'_append_eq_of_le ha
  unfold assembleWord
  match i, hi with
  | 0, _ => exact BitVec.extractLsb'_append_eq_right
  | 1, _ =>
    rw [above _ _ _ (by decide)]
    exact BitVec.extractLsb'_append_eq_right
  | 2, _ =>
    rw [above _ _ _ (by decide), above _ _ _ (by decide)]
    exact BitVec.extractLsb'_append_eq_right
  | 3, _ =>
    rw [above _ _ _ (by decide), above _ _ _ (by decide), above _ _ _ (by decide)]
    exact BitVec.extractLsb'_eq_self

/-- An image byte that the host supplied where it lies below the length. -/
theorem imageByte_of_supplied {missing : Nat → Byte} {image : List Byte} {len j : Nat}
    (h : j < len → j < image.length) (d : Byte) :
    imageByte missing image len j = if j < len then image.getD j d else 0xFF := by
  unfold imageByte
  split_ifs with hj
  · rw [List.getD_eq_getElem _ _ (h hj), List.getD_eq_getElem _ _ (h hj)]
  · rfl

/-! ### Whole next states of the erases and the word writes. -/

theorem delay_afterWrite (us : Nat) (port : Port) (a : BitVec 2) (evs : List PinEvent) (rest : List Bool) (k : BitVec 3)
    (s : State) : delay us (afterWrite port a evs rest k s) = afterWrite port a (evs ++ [.delay us]) rest k s := by
  simp only [delay_eq_play, afterWrite, play_append]
  rfl

section
variable {s : State} {rest : List Bool} {k : BitVec 3} {m : Nat}
variable (ht : s.target = none) (hd : s.cfg.ackOk ≠ s.cfg.ackWait)
include ht hd

theorem massErase_script (h : s.answers = okAcks s.cfg 4 ++ rest) :
    massErase s = .ok (afterWrite .ap 3 (massEraseEv s.cfg) rest s.cfg.ackOk s) := by
  rw [massErase_eq, massEraseWrites, memWrites_script _ _ _ ht hd h, Res.andThen_ok, delay_afterWrite]
  rfl

theorem pageErase_script (pa : Word) (h : s.answers = okAcks s.cfg 8 ++ rest) :
    pageErase pa s = .ok (afterWrite .ap 3 (pageEraseEv s.cfg pa) rest s.cfg.ackOk s) := by
  rw [pageErase_eq, pageEraseWrites, memWrites_script _ _ _ ht hd h, Res.andThen_ok, delay_afterWrite]
  rfl

variable (hk : failingAck s.cfg k = true) (h : s.answers = okAcks s.cfg m ++ bitsOf k ++ rest)
include hk h

theorem massErase_stops (hm : m < 4) :
    massErase s = .raised .eraseFailure
      (afterWrite .ap (tarOrDrw m) (failedWritesEv s.cfg (massEraseWrites s.cfg) m k) rest k s) := by
  rw [massErase_eq, memWrites_failing _ (massEraseWrites s.cfg) ht hd hk hm h, Res.andThen_raised]

theorem pageErase_stops (pa : Word) (hm : m < 8) :
    pageErase pa s = .raised .eraseFailure
      (afterWrite .ap (tarOrDrw m) (failedWritesEv s.cfg (pageEraseWrites s.cfg pa) m k) rest k s) := by
  rw [pageErase_eq, memWrites_failing _ (pageEraseWrites s.cfg pa) ht hd hk hm h, Res.andThen_raised]

end

/-- Some memory writes and then some more. -/
theorem memWrites_append (e : ErrorKind) (us ws : List (Word × Word)) (s : State) :
    memWrites e (us ++ ws) s = (memWrites e us s).andThen (memWrites e ws) := by
  induction us generalizing s with
  | nil => rfl
  | cons u us ih =>
    rw [List.cons_append, memWrites, memWrites_cons_andThen]
    exact congrArg _ (funext ih)

theorem noteImageRead_of_supplied (len : Word) (k : Nat) {s : State} (h : len.toNat ≤ s.image.length) :
    noteImageRead len k s = s := by
  rw [noteImageRead, readsPastImage_of_supplied _ _ _ h]
  rfl

theorem OnWire.memWrites (e : ErrorKind) (ws : List (Word × Word)) (s : State) : OnWire s (memWrites e ws s).st := by
  induction ws generalizing s with
  | nil => exact .refl s
  | cons w ws ih => exact (OnWire.memWriteOr e w.1 w.2 s).andThen ih

theorem OnWire.image {s t : State} (h : OnWire s t) : t.image = s.image := by
  obtain ⟨⟨_, he, _⟩, _⟩ := h; rw [he]; rfl

/-- Programming a word of an image supplied whole is its four memory writes and the settle delay (R251). -/
theorem writeImageWord_eq_memWrites (base : Word) {len : Word} (k : Nat) {s : State}
    (hlen : len.toNat ≤ s.image.length) :
    writeImageWord base len k s
      = (memWrites .writeFailure (writeWordWrites s.cfg s.image base len k) { s with index := k }).andThen fun u =>
        .ok (delay u.cfg.tWordSettleUs u) := by
  rw [writeImageWord_eq, writeWordWrites_eq, memWrites_append, Res.andThen_assoc]
  have hw := OnWire.memWrites .writeFailure (addressWrites s.cfg base k) { s with index := k }
  cases hr : memWrites .writeFailure (addressWrites s.cfg base k) { s with index := k } with
  | raised e t => simp only [Res.andThen_raised]
  | ok t =>
    rw [hr] at hw
    have hcfg : t.cfg = s.cfg := hw.cfg
    have himage : t.image = s.image := hw.image
    rw [Res.andThen_ok, Res.andThen_ok, noteImageRead_of_supplied len k (himage ▸ hlen),
      imageWord_of_supplied len k t (himage ▸ hlen), hcfg, himage]

/-- The progress left is the last value set. -/
theorem Log.sets_concat_progress (l : Log) (vals : List Nat) (p : Nat) : (l.sets (vals ++ [p])).progress = p :=
  List.getLastD_concat

theorem pageValues_getLastD (cfg : Params) (pages i p : Nat) :
    (pageValues cfg pages i).getLastD p = if i = 0 then p else cfg.pEraseEnd * i / pages := by
  cases i with
  | zero => rfl
  | succ i => rw [pageValues_succ, List.getLastD_concat, if_neg (Nat.succ_ne_zero i)]

theorem wantsMassErase_iff (cfg : Params) (base len : Word) :
    wantsMassErase cfg base len = true ↔ base = cfg.flashBase ∧ cfg.massThreshold.toNat < len.toNat := by
  simp [wantsMassErase]

namespace At

variable {cfg : Params} {image : List Byte} {l : Log} {ans : List Bool} {s : State} {k : BitVec 3} {base len : Word}
variable (hd : cfg.ackOk ≠ cfg.ackWait) (hk : failingAck cfg k = true)
include hd hk

/-- Where the erase of page `i` stops, `REG.index` is `i` and `REG.ack` the failing ACK (R243,
60_exceptions.md R330). -/
theorem flashErase_stops (hpages : wantsMassErase cfg base len = false) {i m : Nat} (hi : i < pageCount cfg len)
    (hm : m < 8) (h : At cfg image l (okAcks cfg (8 * i + m) ++ bitsOf k ++ ans) s) :
    (flashErase base len s).Ends (some .eraseFailure) fun u => u.ack = k ∧ u.index = i ∧ At cfg image
      ((l.play (erasePagesEv cfg base i ++ failedWritesEv cfg (pageEraseWrites cfg (pageAddr cfg base i)) m k)).sets
        (pageValues cfg (pageCount cfg len) i)) ans u := by
  rw [okAcks_add, List.append_assoc, List.append_assoc, ← List.append_assoc (okAcks cfg m)] at h
  obtain ⟨n, hn⟩ : ∃ n, pageCount cfg len = i + (n + 1) := ⟨pageCount cfg len - i - 1, by omega⟩
  obtain ⟨t, ht, he⟩ := erasePages_from hd base (pageCount cfg len) i (n + 1) h
  obtain rfl := ht.cfg
  rw [← hn] at he
  rw [flashErase, h.cfg, hpages, if_neg Bool.false_ne_true, he, erasePages,
    pageErase_stops (s := { t with index := i }) ht.target hd hk ht.answers _ hm]
  refine .raised ⟨rfl, rfl, (((ht.index i).afterWrite ..).cast ?_)⟩
  rw [Log.play_sets, Log.play_play]

/-- Where the mass erase stops (R243). -/
theorem flashErase_mass_stops (hmass : wantsMassErase cfg base len = true) {m : Nat} (hm : m < 4)
    (h : At cfg image l (okAcks cfg m ++ bitsOf k ++ ans) s) :
    (flashErase base len s).Ends (some .eraseFailure) fun u =>
      u.ack = k ∧ At cfg image (l.play (failedWritesEv cfg (massEraseWrites cfg) m k)) ans u := by
  obtain rfl := h.cfg
  rw [flashErase, if_pos hmass, massErase_stops h.target hd hk h.answers hm]
  exact .raised ⟨rfl, h.afterWrite ..⟩

/-- Where the enable write of a flash write stops (R251). -/
theorem flashWrite_enable_stops (base len : Word) {j : Nat} (hj : j < 2)
    (h : At cfg image l (okAcks cfg j ++ bitsOf k ++ ans) s) :
    (flashWrite base len s).Ends (some .writeFailure) fun u => u.ack = k ∧ At cfg image
      ((l.play (failedWritesEv cfg [(mscWritectrl cfg, cfg.mscWren)] j k)).sets (writeValues cfg len 0)) ans u := by
  obtain rfl := h.cfg
  have hstart := h.startWrite
  rw [flashWrite, memWriteOr_failing _ _ _ j k ans (Machine.startWrite s) hstart.target hd hk hj hstart.answers]
  exact .raised ⟨rfl, hstart.afterWrite ..⟩

/-- Where the programming of image word `i` stops, `REG.index` is `i` and `REG.ack` the failing ACK (R251,
60_exceptions.md R330). -/
theorem flashWrite_word_stops (hlen : len.toNat ≤ image.length) {i j : Nat} (hi : i < wordCount len) (hj : j < 8)
    (h : At cfg image l (okAcks cfg (2 + 8 * i + j) ++ bitsOf k ++ ans) s) :
    (flashWrite base len s).Ends (some .writeFailure) fun u => u.ack = k ∧ u.index = i ∧ At cfg image
      ((l.play (writeWordsEv cfg image base len i
        ++ failedWritesEv cfg (writeWordWrites cfg image base len i) j k)).sets
        (writeValues cfg len i)) ans u := by
  rw [okAcks_add, List.append_assoc, List.append_assoc, ← List.append_assoc (okAcks cfg j)] at h
  obtain ⟨m, hm⟩ : ∃ m, i + (m + 1) = wordCount len := ⟨wordCount len - i - 1, by omega⟩
  obtain ⟨t, ht, he⟩ := flashWrite_from hd (base := base) hlen hm h
  obtain rfl := ht.cfg
  obtain rfl := ht.image
  rw [he, writeWords, writeImageWord_eq_memWrites base i hlen, Machine.memWrites_failing (s := { t with index := i }) _
    (writeWordWrites t.cfg t.image base len i) ht.target hd hk hj ht.answers, ← Log.play_play]
  exact .raised ⟨rfl, rfl, (ht.index i).afterWrite ..⟩

end At

namespace At

variable {cfg : Params} {image : List Byte} {l : Log} {ans : List Bool} {s : State} {base len : Word}

/-- A word read back: what it is compared in (R260). -/
theorem verifyImageWord_script (hd : cfg.ackOk ≠ cfg.ackWait) (hlen : len.toNat ≤ image.length) {w : Word} (i : Nat)
    (h : At cfg image l (okAcks cfg 1 ++ okRead cfg w (evenParity w) ++ ans) s) :
    verifyImageWord base len i s = compareWord len i w (Machine.afterRead .ap 3
      (memReadEv cfg (wordAddr base i) w (evenParity w)) ans w (evenParity w) { s with index := i }) := by
  obtain rfl := h.cfg
  obtain rfl := h.image
  have hread := memRead_script (wordAddr base i) w _ ans { s with index := i } h.target hd (parityAccepted_even _ _)
    h.answers
  rw [verifyImageWord, hread]
  exact congrArg (compareWord len i w) (noteImageRead_of_supplied len i hlen)

/-- Where a verify ends early: one mismatch more than allowed is counted, and `REG.index` is the word's (R260). -/
theorem flashVerify_stops (hd : cfg.ackOk ≠ cfg.ackWait) (hlen : len.toNat ≤ image.length) {ws : List Word} {z : Word}
    (hn : ws.length < wordCount len) (hmax : mismatches image len.toNat 0 ws = cfg.verifyMaxErr)
    (hz : z ≠ wordOf image len.toNat ws.length) (h : At cfg image l (okMemReads cfg (ws ++ [z]) ++ ans) s) :
    (flashVerify base len s).Ends (some .verifyFailure) fun u =>
      u.errCount = cfg.verifyMaxErr + 1 ∧ u.resData = BitVec.ofNat 32 (cfg.verifyMaxErr + 1) ∧ u.index = ws.length
        ∧ At cfg image
          ((l.play (verifyReadsEv cfg base 0 (ws ++ [z]))).sets (verifyValues cfg len ws.length)) ans u := by
  rw [okMemReads_append, okMemReads_singleton, List.append_assoc] at h
  obtain ⟨m, hm⟩ : ∃ m, ws.length + (m + 1) = wordCount len := ⟨wordCount len - ws.length - 1, by omega⟩
  obtain ⟨t, ht, hc, he⟩ := flashVerify_from hd (base := base) hlen hm hmax.le h
  obtain rfl := ht.cfg
  have hu := (ht.index ws.length).afterRead .ap 3 (memReadEv t.cfg (wordAddr base ws.length) z (evenParity z)) ans z
    (evenParity z)
  have hcount := hc.trans hmax
  rw [he, verifyWords, verifyImageWord_script hd hlen ws.length ht,
    compareWord_of_max (by rw [hu.imageWord_eq hlen]; exact hz) (by exact hcount), verifyReadsEv_append, Nat.zero_add,
    ← Log.play_play]
  exact .raised ⟨congrArg (· + 1) hcount, congrArg (fun n => BitVec.ofNat 32 (n + 1)) hcount, rfl,
    (hu.cast (by simp [verifyReadsEv, Log.play_sets])).same rfl⟩

end At

/-- What a command answers, from what its procedure comes to. -/
theorem next_report {r r' : Res} (h : r = r') :
    (Host.Outcome.next (report r) : Host.Outcome State Fault Refusal) = .next (report r') :=
  congrArg Host.Outcome.next (congrArg report h)

end Sys2Proof.Machine
end

section
/-!
PROOFS. The statements about the flash commands on a script.
-/

namespace Sys2Proof.Machine

/-- Settles O42: the word assembled is its four bytes, and with no byte missing the command reads that word. -/
theorem imageWordsAreLittleEndianAndPadded : Obligations.ImageWordsAreLittleEndianAndPadded := by
  unfold Obligations.ImageWordsAreLittleEndianAndPadded
  refine ⟨fun image len k i hi h => ?_, fun len k s h => assembleWord_of_supplied _ _ _ _ h⟩
  exact (assembleWord_byte _ image len k hi).trans (imageByte_of_supplied h 0)

/-- Settles O43: each erase is a list of memory writes, then its settle delay where all of them succeed. -/
theorem massAndPageEraseSendTheirCommands : Obligations.MassAndPageEraseSendTheirCommands := by
  unfold Obligations.MassAndPageEraseSendTheirCommands
  intro s rest ht hd
  have mass : exec .massErase s = .next (report (massErase s)) := rfl
  have page : exec .pageErase s = .next (report (pageErase s.argAddr s)) := rfl
  refine ⟨fun h => ?_, fun h => ?_, fun m k hk h => ⟨fun hm => ?_, fun hm => ?_⟩⟩
  · rw [mass, massErase_script ht hd h]
    rfl
  · rw [page, pageErase_script ht hd _ h]
    rfl
  · rw [mass, massErase_stops ht hd hk h hm]
    rfl
  · rw [page, pageErase_stops ht hd hk h _ hm]
    rfl

/-- Settles O44, by the policy: a long region at the flash's base is one mass erase, any other a loop over pages. -/
theorem flashEraseFollowsThePolicy : Obligations.FlashEraseFollowsThePolicy := by
  unfold Obligations.FlashEraseFollowsThePolicy
  intro s rest ht hd whole pages fails
  have hs := at_self ht
  have hwhole : wantsMassErase s.cfg s.argAddr s.argLen = true ↔ whole := wantsMassErase_iff ..
  refine ⟨fun h => ?erased, fun m k hw hm hk h => ?mass, fun i m k hw hi hm hk h => ?page⟩
  case erased =>
    have hacks : (if whole then 4 else 8 * pages) = eraseAcks s.cfg s.argAddr s.argLen :=
      if_congr hwhole.symm rfl rfl
    rw [h, hacks] at hs
    obtain ⟨t, he, hat⟩ := hs.flashErase_ok hd s.argAddr s.argLen
    refine ⟨_, next_report he, rfl, hat.answers, ?_, congrArg Log.note hat.log,
      congrArg Log.ev hat.log⟩
    exact (congrArg Log.progress hat.log).trans (Log.sets_concat_progress ..)
  case mass =>
    rw [h] at hs
    obtain ⟨t, he, hack, hat⟩ := hs.flashErase_mass_stops hd hk (hwhole.2 hw) hm
    exact ⟨_, ⟨next_report he, rfl, hack, hat.answers⟩, congrArg Log.progress hat.log,
      congrArg Log.note hat.log, congrArg Log.ev hat.log⟩
  case page =>
    rw [h] at hs
    have hpages : wantsMassErase s.cfg s.argAddr s.argLen = false := Bool.eq_false_iff.2 (mt hwhole.1 hw)
    obtain ⟨t, he, hack, hindex, hat⟩ := hs.flashErase_stops hd hk hpages hi hm
    refine ⟨_, ⟨next_report he, rfl, hack, hat.answers⟩, hindex, ?_, congrArg Log.note hat.log, ?_⟩
    · exact (congrArg Log.progress hat.log).trans (pageValues_getLastD ..)
    · rw [List.append_assoc]
      exact congrArg Log.ev hat.log

/-- Settles O45: the enable write, then a loop over the image words, each of four memory writes. -/
theorem flashWriteProgramsEveryWord : Obligations.FlashWriteProgramsEveryWord := by
  unfold Obligations.FlashWriteProgramsEveryWord
  intro s rest ht hd hlen h
  have hs := at_self ht
  rw [h] at hs
  obtain ⟨t, he, hat⟩ := hs.flashWrite_ok hd (base := s.argAddr) hlen
  refine ⟨_, next_report he, rfl, hat.answers, ?_, congrArg Log.note hat.log, congrArg Log.ev hat.log⟩
  exact (congrArg Log.progress hat.log).trans (Log.sets_concat_progress ..)

/-- Settles O46: the words before the failing one are written as in O45, and nothing follows the failing write. -/
theorem flashWriteStopsAtTheFirstFailure : Obligations.FlashWriteStopsAtTheFirstFailure := by
  unfold Obligations.FlashWriteStopsAtTheFirstFailure
  intro s j k rest ht hd hk fails
  have hs := at_self ht
  refine ⟨fun hj h => ?enable, fun i hlen hi hj h => ?word⟩
  case enable =>
    rw [h] at hs
    obtain ⟨t, he, hack, hat⟩ := hs.flashWrite_enable_stops hd hk s.argAddr s.argLen hj
    exact ⟨_, ⟨next_report he, rfl, hack, hat.answers⟩, congrArg Log.progress hat.log,
      congrArg Log.note hat.log, congrArg Log.ev hat.log⟩
  case word =>
    rw [h] at hs
    obtain ⟨t, he, hack, hindex, hat⟩ := hs.flashWrite_word_stops hd hk (base := s.argAddr) hlen hi hj
    refine ⟨_, ⟨next_report he, rfl, hack, hat.answers⟩, hindex, congrArg Log.note hat.log, ?_⟩
    rw [List.append_assoc]
    exact congrArg Log.ev hat.log

/-- Settles O47, by cases on whether a word read differs from the image's. -/
theorem flashVerifyCountsTheMismatches : Obligations.FlashVerifyCountsTheMismatches := by
  unfold Obligations.FlashVerifyCountsTheMismatches
  intro s ws rest ht hd hlen hn hmax h
  have hs := at_self ht
  rw [h] at hs
  obtain ⟨t, hat, hc, he⟩ := hs.flashVerify_compared hd (base := s.argAddr) hlen hn hmax
  have hexec : exec .flashVerify s = .next (report (verifyEnd t)) :=
    next_report he
  rw [verifyEnd] at hexec
  rw [hn]
  by_cases hzero : mismatches s.image s.argLen.toNat 0 ws = 0
  · rw [if_pos (hc.trans hzero), hat.cfg] at hexec
    have hdata : At s.cfg s.image _ rest { t with resData := BitVec.ofNat 32 t.errCount } := hat.same rfl
    have hend := hat.cfg ▸ hdata.setProgress t.cfg.pVerifyEnd
    rw [Log.sets_sets] at hend
    rw [if_pos hzero]
    exact ⟨_, hexec, hend.answers, congrArg Log.ev hend.log, congrArg Log.note hend.log, hc, rfl,
      fun _ => ⟨rfl, rfl⟩, fun h => absurd (hc.trans hzero) h⟩
  · rw [if_neg (hc ▸ hzero)] at hexec
    rw [if_neg hzero, List.append_nil]
    exact ⟨_, hexec, hat.answers, congrArg Log.ev hat.log, congrArg Log.note hat.log, hc, rfl,
      fun h => absurd (hc.symm.trans h) hzero, fun _ => rfl⟩

/-- Settles O48: the words before the last are read as in O47, and the last exceeds the mismatches allowed. -/
theorem flashVerifyStopsEarly : Obligations.FlashVerifyStopsEarly := by
  unfold Obligations.FlashVerifyStopsEarly
  intro s ws w rest ht hd hlen hn hmax hw h
  have hs := at_self ht
  rw [h] at hs
  obtain ⟨t, he, hcount, hdata, hindex, hat⟩ := hs.flashVerify_stops hd (base := s.argAddr) hlen hn hmax hw
  exact ⟨_, next_report he, hat.answers, rfl, hcount, hdata, hindex, congrArg Log.ev hat.log,
    congrArg Log.note hat.log⟩

end Sys2Proof.Machine
end

section
/-!
SUPPORT. What each flash command notifies, from whatever the progress was before it (44_flash.md R264): no status, and
progress values that climb within the command's phase.
-/

namespace Sys2Proof.Machine

/-! ### Notifications without a status. -/

/-- From `s` to `t` no status is notified. -/
def Quiet (s t : State) : Prop := ∃ l, t.note = s.note ++ l ∧ statusesOf l = []

theorem Quiet.of_note {s t : State} (h : t.note = s.note) : Quiet s t := ⟨[], by rw [h, List.append_nil], rfl⟩

theorem Quiet.setProgress (p : Nat) (s : State) : Quiet s (setProgress p s) :=
  ⟨_, setProgress_note p s, statusesOf_progressNotes _ _⟩

theorem walk_quiet : Walk Quiet where
  refl _ := .of_note rfl
  trans := fun ⟨l, hl, hls⟩ ⟨m, hm, hms⟩ =>
    ⟨l ++ m, by rw [hm, hl, List.append_assoc], by rw [statusesOf_append, hls, hms, List.append_nil]⟩
  wire h := .of_note (congrArg (·.2.2) (walk_progressPart.wire h))

theorem Quiet.compareWord (len : Word) (k : Nat) (w : Word) (s : State) : Quiet s (compareWord len k w s).st :=
  .of_note (congrArg (·.2.2) (compareWord_progressPart len k w s))

theorem Quiet.verifyEnd (s : State) : Quiet s (verifyEnd s).st := by
  simp only [Machine.verifyEnd]
  split_ifs
  · exact .setProgress s.cfg.pVerifyEnd s
  · exact .of_note rfl

theorem Quiet.flashErase (base len : Word) (s : State) : Quiet s (flashErase base len s).st :=
  walk_quiet.flashErase (fun _ _ => .of_note rfl) .setProgress base len s

theorem Quiet.flashWrite (base len : Word) (s : State) : Quiet s (flashWrite base len s).st :=
  walk_quiet.flashWrite (fun _ _ => .of_note rfl) .setProgress (fun _ _ _ => .of_note rfl) base len s

theorem Quiet.flashVerify (base len : Word) (s : State) : Quiet s (flashVerify base len s).st :=
  walk_quiet.flashVerify (fun _ _ => .of_note rfl) .setProgress (fun _ _ _ => .of_note rfl) .compareWord
    (fun _ => .of_note rfl) .verifyEnd base len s

/-! ### Progress that climbs in a phase, from whatever it was before the phase. -/

/-- From `s` to `t` the progress values notified do not decrease and lie between `lo` and `hi`. The progress of `s` may
be above them. -/
def RisesIn (lo hi : Nat) (s t : State) : Prop :=
  ∃ l, t.note = s.note ++ l ∧ (progressOf l).Pairwise (· ≤ ·) ∧ ∀ p ∈ progressOf l, lo ≤ p ∧ p ≤ hi

theorem RisesIn.of_note {lo hi : Nat} {s t : State} (h : t.note = s.note) : RisesIn lo hi s t :=
  ⟨[], by rw [h, List.append_nil], .nil, by simp [progressOf]⟩

/-- Once the progress is set to a value of the phase, it climbs from there. -/
theorem RisesIn.of_set {lo hi p : Nat} {s u t : State} (hset : u.log = s.log.sets [p]) (hp : lo ≤ p)
    (h : ClimbsTo hi u t) : RisesIn lo hi s t := by
  obtain ⟨l, hl, hsorted, hbounds, -⟩ := h.notes
  have hprog : u.progress = p := congrArg Log.progress hset
  have hnote : u.note = s.note ++ progressNotes s.progress [p] := congrArg Log.note hset
  rw [hprog] at hbounds
  have hrest : ∀ q ∈ progressOf l, lo ≤ q ∧ q ≤ hi := fun q hq =>
    ⟨hp.trans (hbounds q hq).1, (hbounds q hq).2.trans h.cap⟩
  by_cases hsame : p = s.progress
  · exact ⟨l, by rw [hl, hnote]; simp [progressNotes, hsame], hsorted, hrest⟩
  · refine ⟨.progress p :: l, by rw [hl, hnote]; simp [progressNotes, hsame], ?_, ?_⟩
    · exact List.pairwise_cons.2 ⟨fun q hq => (hbounds q hq).1, hsorted⟩
    · exact List.forall_mem_cons.2 ⟨⟨hp, hprog ▸ h.le.trans h.cap⟩, hrest⟩

/-- The parts of a command that leave the progress alone may come first. -/
theorem RisesIn.after {lo hi : Nat} {s : State} {r : Res} {f : State → Res} (hr : r.st.progressPart = s.progressPart)
    (h : ∀ t, t.progressPart = s.progressPart → RisesIn lo hi t (f t).st) : RisesIn lo hi s (r.andThen f).st := by
  have hnote : r.st.note = s.note := congrArg (·.2.2) hr
  cases r with
  | ok t => 
    obtain ⟨l, hl, hrest⟩ := h t hr
    exact ⟨l, by rw [Res.andThen_ok, hl]; exact congrArg (· ++ l) hnote, hrest⟩
  | raised e t => exact .of_note hnote

theorem RisesIn.massErase (s : State) :
    RisesIn 0 s.cfg.pEraseEnd s ((Machine.massErase s).andThen fun t => .ok (setProgress t.cfg.pEraseEnd t)).st := by
  refine .after (walk_progressPart.wire (.massErase s)) fun t ht => ?_
  have hcfg : t.cfg = s.cfg := congrArg (·.1) ht
  exact .of_set (setProgress_log _ t) (Nat.zero_le _) (.steady rfl (hcfg ▸ le_rfl))

theorem RisesIn.erasePages (base : Word) (n : Nat) (s : State) :
    RisesIn 0 s.cfg.pEraseEnd s
      ((Machine.erasePages base n n 0 s).andThen fun t => .ok (setProgress t.cfg.pEraseEnd t)).st := by
  cases n with
  | zero => exact .of_set (setProgress_log _ s) (Nat.zero_le _) (.steady rfl le_rfl)
  | succ n =>
    rw [Machine.erasePages, Res.andThen_assoc]
    have hpage := walk_progressPart.wire (OnWire.pageErase (pageAddr s.cfg base 0) { s with index := 0 })
    refine .after hpage fun t ht => ?_
    have hcfg : t.cfg = s.cfg := congrArg (·.1) ht
    refine .of_set (setProgress_log (t.cfg.pEraseEnd * (0 + 1) / (n + 1)) t) (Nat.zero_le _) ?_
    refine ClimbsTo.andThen (erasePages_climbs base hcfg (by omega) ?_) le_rfl fun u hu hp => ?_
    · simp [phaseProgress, hcfg]
    · have hend : u.cfg = s.cfg := hu.trans hcfg
      rw [hend]
      exact .setProgress hp

theorem RisesIn.flashErase (base len : Word) (s : State) :
    RisesIn 0 s.cfg.pEraseEnd s (Machine.flashErase base len s).st := by
  unfold Machine.flashErase
  split_ifs
  · exact .massErase s
  · exact .erasePages base _ s

/-- Starting a flash write twice is starting it once. -/
theorem flashWrite_startWrite (base len : Word) (s : State) :
    flashWrite base len (startWrite s) = flashWrite base len s := by
  have h : startWrite (startWrite s) = startWrite s := by simp [startWrite, setProgress]
  rw [flashWrite, h]
  rfl

theorem RisesIn.flashWrite {s : State} (hv : s.cfg.valid = true) (base len : Word) :
    RisesIn s.cfg.pEraseEnd s.cfg.pWriteEnd s (Machine.flashWrite base len s).st := by
  rw [← flashWrite_startWrite]
  exact .of_set (u := startWrite s) (setProgress_log _ s) le_rfl (flashWrite_climbs hv base len rfl le_rfl)

/-- Starting a flash verify twice is starting it once. -/
theorem flashVerify_start (base len : Word) (s : State) :
    flashVerify base len (setProgress s.cfg.pWriteEnd s) = flashVerify base len s := by
  have h : setProgress s.cfg.pWriteEnd { setProgress s.cfg.pWriteEnd s with errCount := 0 }
      = setProgress s.cfg.pWriteEnd { s with errCount := 0 } := by simp [setProgress]
  rw [flashVerify, flashVerify]
  exact congrArg (fun t => (verifyWords base len _ _ 0 t).andThen verifyEnd) h

theorem RisesIn.flashVerify {s : State} (hv : s.cfg.valid = true) (base len : Word) :
    RisesIn s.cfg.pWriteEnd s.cfg.pVerifyEnd s (Machine.flashVerify base len s).st := by
  rw [← flashVerify_start]
  exact .of_set (setProgress_log _ s) le_rfl (flashVerify_climbs hv base len rfl le_rfl)

theorem report_note (r : Res) : (report r).note = r.st.note := by cases r <;> rfl

/-- What a command notifies whose progress rises in a phase and that sets no status. -/
theorem RisesIn.reported {lo hi : Nat} {s : State} {r : Res} (h : RisesIn lo hi s r.st) (hq : Quiet s r.st) :
    ∃ l, (report r).note = s.note ++ l ∧ statusesOf l = [] ∧ (progressOf l).Pairwise (· ≤ ·)
      ∧ ∀ p ∈ progressOf l, lo ≤ p ∧ p ≤ hi := by
  obtain ⟨l, hl, hrest⟩ := h
  obtain ⟨m, hm, hstatus⟩ := hq
  obtain rfl : m = l := List.append_cancel_left (hm.symm.trans hl)
  exact ⟨m, (report_note r).trans hm, hstatus, hrest⟩

end Sys2Proof.Machine
end

section
/-!
PROOFS. The progress of the flash commands.
-/

namespace Sys2Proof.Machine

/-- Settles O50: no flash command sets a status, and what each sets the progress to climbs from the first value on. -/
theorem flashProgressStaysInItsPhase : Obligations.FlashProgressStaysInItsPhase := by
  unfold Obligations.FlashProgressStaysInItsPhase
  intro s t hv
  refine ⟨fun h => ?erase, fun h => ?write, fun h => ?verify⟩
  all_goals cases h
  case erase =>
    obtain ⟨l, hl, hstatus, hsorted, hbounds⟩ := (RisesIn.flashErase s.argAddr s.argLen s).reported (.flashErase ..)
    exact ⟨l, hl, hstatus, hsorted, fun p hp => (hbounds p hp).2⟩
  case write => exact (RisesIn.flashWrite hv s.argAddr s.argLen).reported (.flashWrite ..)
  case verify => exact (RisesIn.flashVerify hv s.argAddr s.argLen).reported (.flashVerify ..)

end Sys2Proof.Machine
end

section
/-!
SUPPORT. The flash commands with the reference target of 20_memory.md R80 attached and no ACK injected: what memory
writes make of it, and that the words written are the words read back (44_flash.md R263).
-/

namespace Sys2Proof.Machine

/-! ### What the flash controller makes of its commands. -/

namespace RefTarget

theorem load_store_same (cfg : Params) (r : RefTarget) (a v : Word) (h : r.canonical cfg) :
    (r.store cfg a v).load cfg a = v := Memory.get_put_same _ _ _ h

theorem load_store_other (cfg : Params) (r : RefTarget) {a b : Word} (v : Word) (h : b ≠ a) :
    (r.store cfg a v).load cfg b = r.load cfg b := Memory.get_put_other _ _ fun e => h (BitVec.eq_of_toNat_eq e)

/-- Writing enable is changed by its register alone. -/
theorem memWritten_wren (cfg : Params) (r : RefTarget) {addr : Word} (data : Word) (h : addr ≠ mscWritectrl cfg) :
    (r.memWritten cfg addr data).wren = r.wren := by
  rw [memWritten, mscEffect, if_neg h]
  unfold command
  split_ifs <;> rfl

end RefTarget

section
variable {cfg : Params} (hl : refLayout cfg = true)
include hl

/-- No two of the controller's registers coincide. -/
theorem registers_of_refLayout :
    mscAddrb cfg ≠ mscWritectrl cfg ∧ mscWdata cfg ≠ mscWritectrl cfg ∧ mscWdata cfg ≠ mscAddrb cfg
      ∧ mscWritecmd cfg ≠ mscWritectrl cfg ∧ mscWritecmd cfg ≠ mscAddrb cfg ∧ mscWritecmd cfg ≠ mscWdata cfg := by
  simp only [refLayout, Bool.and_eq_true, decide_eq_true_eq, List.nodup_cons, List.mem_cons, not_or] at hl
  obtain ⟨⟨⟨⟨⟨⟨⟨⟨h₁, h₂, h₃, -⟩, ⟨h₄, h₅, -⟩, ⟨h₆, -⟩, -⟩, -⟩, -⟩, -⟩, -⟩, -⟩, -⟩ := hl
  exact ⟨Ne.symm h₂, Ne.symm h₃, Ne.symm h₆, Ne.symm h₁, h₄, h₅⟩

/-- The trigger is none of the other commands, and the enable word sets the enable bit. -/
theorem commands_of_refLayout :
    cfg.cmdWritetrig ≠ cfg.cmdLaddrim ∧ cfg.cmdWritetrig ≠ cfg.cmdErasepage ∧ cfg.cmdWritetrig ≠ cfg.cmdErasemain
      ∧ cfg.mscWren.getLsbD 0 = true := by
  simp only [refLayout, Bool.and_eq_true, decide_eq_true_eq, List.nodup_cons, List.mem_cons, not_or] at hl
  obtain ⟨⟨⟨⟨⟨⟨-, ⟨-, h₁, -⟩, ⟨h₂, -⟩, ⟨h₃, -⟩, -⟩, h₄⟩, -⟩, -⟩, -⟩, -⟩ := hl
  exact ⟨Ne.symm h₁, Ne.symm h₂, h₃, h₄⟩

namespace RefTarget

variable (r : RefTarget) (v : Word)

/-- Writing the enable register (20_memory.md R80). -/
theorem memWritten_writectrl : (r.memWritten cfg (mscWritectrl cfg) cfg.mscWren).wren = true := by
  rw [memWritten, mscEffect, if_pos rfl]
  exact (commands_of_refLayout hl).2.2.2

theorem memWritten_addrb : (r.memWritten cfg (mscAddrb cfg) v).addrb = v := by
  rw [memWritten, mscEffect, if_neg (registers_of_refLayout hl).1, if_pos rfl]

theorem memWritten_wdata :
    (r.memWritten cfg (mscWdata cfg) v).wdata = v ∧ (r.memWritten cfg (mscWdata cfg) v).latched = r.latched := by
  obtain ⟨-, h₁, h₂, -⟩ := registers_of_refLayout hl
  rw [memWritten, mscEffect, if_neg h₁, if_neg h₂, if_pos rfl]
  exact ⟨rfl, rfl⟩

theorem memWritten_writecmd :
    r.memWritten cfg (mscWritecmd cfg) v
      = (({ r with tar := mscWritecmd cfg } : RefTarget).store cfg (mscWritecmd cfg) v).command cfg v := by
  obtain ⟨-, -, -, h₁, h₂, h₃⟩ := registers_of_refLayout hl
  rw [memWritten, mscEffect, if_neg h₁, if_neg h₂, if_neg h₃, if_pos rfl]

/-- The address command latches the address written and touches no memory but its register (R80). -/
theorem memWritten_laddrim :
    (r.memWritten cfg (mscWritecmd cfg) cfg.cmdLaddrim).latched = r.addrb
      ∧ ∀ b, b ≠ mscWritecmd cfg → (r.memWritten cfg (mscWritecmd cfg) cfg.cmdLaddrim).load cfg b = r.load cfg b := by
  rw [memWritten_writecmd hl, command, if_pos rfl]
  exact ⟨rfl, fun b hb => r.load_store_other cfg cfg.cmdLaddrim hb⟩

/-- The trigger programs the word at the address latched, where writing is enabled (R80). -/
theorem load_memWritten_writetrig (hr : r.canonical cfg) (hw : r.wren = true) {b : Word} (hb : b ≠ mscWritecmd cfg) :
    (r.memWritten cfg (mscWritecmd cfg) cfg.cmdWritetrig).load cfg b
      = if b = r.latched then r.wdata else r.load cfg b := by
  obtain ⟨h₁, h₂, h₃, -⟩ := commands_of_refLayout hl
  rw [memWritten_writecmd hl, command, if_neg h₁, if_neg h₂, if_neg h₃, if_pos rfl, if_pos (by exact hw)]
  split_ifs with he
  · subst he
    exact load_store_same _ _ _ _ (store_canonical _ _ _ _ hr)
  · exact (load_store_other _ _ _ he).trans (r.load_store_other cfg cfg.cmdWritetrig hb)

end RefTarget

end

namespace RefTarget

variable (cfg : Params) (r : RefTarget)

/-- The target after some memory writes, each an address and a word. -/
def memsWritten (ws : List (Word × Word)) : RefTarget := ws.foldl (fun q w => q.memWritten cfg w.1 w.2) r

/-- The target outside bank 0xF, with a canonical memory and no ACK injected. -/
structure Ready : Prop where
  inject : r.inject = []
  canonical : r.canonical cfg
  bank : r.select.extractLsb' 4 4 ≠ 0xF

variable {cfg r}

theorem Ready.memWritten (h : r.Ready cfg) (addr data : Word) : (r.memWritten cfg addr data).Ready cfg := by
  obtain ⟨hinject, hselect, -⟩ := r.memWritten_rest cfg addr data
  exact ⟨hinject.trans h.inject, r.memWritten_canonical cfg addr data h.canonical, hselect ▸ h.bank⟩

theorem Ready.memsWritten (h : r.Ready cfg) (ws : List (Word × Word)) : (r.memsWritten cfg ws).Ready cfg := by
  induction ws generalizing r with
  | nil => exact h
  | cons w ws ih => exact ih (h.memWritten w.1 w.2)

/-- The four memory writes that program an image word store it at its address; the rest of the memory is changed at the
controller's registers alone (44_flash.md R251). -/
theorem memsWritten_writeWordWrites (hl : refLayout cfg = true) (hr : r.Ready cfg) (hw : r.wren = true)
    (image : List Byte) (base len : Word) (k : Nat) :
    (r.memsWritten cfg (writeWordWrites cfg image base len k)).wren = true
      ∧ ∀ b, b ≠ mscAddrb cfg → b ≠ mscWritecmd cfg → b ≠ mscWdata cfg →
        (r.memsWritten cfg (writeWordWrites cfg image base len k)).load cfg b
          = if b = wordAddr base k then wordOf image len.toNat k else r.load cfg b := by
  obtain ⟨haddrb, hwdata, -, hcmd, hca, hcw⟩ := registers_of_refLayout hl
  simp only [memsWritten, writeWordWrites, List.foldl_cons, List.foldl_nil]
  have wren₁ := r.memWritten_wren cfg (wordAddr base k) haddrb
  have addrb₁ := memWritten_addrb hl r (wordAddr base k)
  have load₁ (b) (hb : b ≠ mscAddrb cfg) :=
    (r.load_memWritten cfg _ (wordAddr base k) b hca.symm hr.canonical).trans (if_neg hb)
  have ready₁ := hr.memWritten (mscAddrb cfg) (wordAddr base k)
  generalize r.memWritten cfg (mscAddrb cfg) (wordAddr base k) = q₁ at *
  have wren₂ := q₁.memWritten_wren cfg cfg.cmdLaddrim hcmd
  obtain ⟨latched₂, load₂⟩ := memWritten_laddrim hl q₁
  have ready₂ := ready₁.memWritten (mscWritecmd cfg) cfg.cmdLaddrim
  generalize q₁.memWritten cfg (mscWritecmd cfg) cfg.cmdLaddrim = q₂ at *
  have wren₃ := q₂.memWritten_wren cfg (wordOf image len.toNat k) hwdata
  obtain ⟨wdata₃, latched₃⟩ := memWritten_wdata hl q₂ (wordOf image len.toNat k)
  have load₃ (b) (hb : b ≠ mscWdata cfg) :=
    (q₂.load_memWritten cfg _ (wordOf image len.toNat k) b hcw.symm ready₂.canonical).trans (if_neg hb)
  have ready₃ := ready₂.memWritten (mscWdata cfg) (wordOf image len.toNat k)
  generalize q₂.memWritten cfg (mscWdata cfg) (wordOf image len.toNat k) = q₃ at *
  have hw₃ : q₃.wren = true := wren₃.trans (wren₂.trans (wren₁.trans hw))
  refine ⟨(q₃.memWritten_wren cfg _ hcmd).trans hw₃, fun b ha hc hd => ?_⟩
  rw [load_memWritten_writetrig hl q₃ ready₃.canonical hw₃ hc, latched₃, latched₂, addrb₁, wdata₃, load₃ b hd,
    load₂ b hc, load₁ b ha]

/-- The target while an image is programmed and after: writing is enabled, and the first `k` words are at their
addresses. -/
structure Programmed (cfg : Params) (image : List Byte) (base len : Word) (k : Nat) (r : RefTarget) : Prop
    extends r.Ready cfg where
  wren : r.wren = true
  words : ∀ j < k, r.load cfg (wordAddr base j) = wordOf image len.toNat j

end RefTarget

/-! ### The image words' addresses. -/

theorem wordCount_le (len : Word) : wordCount len ≤ 2 ^ 30 := by
  have := len.isLt
  rw [wordCount_eq]
  omega

/-- No two image words have one address (20_memory.md R73). -/
theorem wordAddr_inj (base : Word) {len : Word} {j k : Nat} (hj : j < wordCount len) (hk : k < wordCount len) :
    wordAddr base j = wordAddr base k ↔ j = k := by
  have hle := wordCount_le len
  refine ⟨fun h => ?_, fun h => h ▸ rfl⟩
  have hoffset : 4 * j % 2 ^ 32 = 4 * k % 2 ^ 32 := congrArg BitVec.toNat (add_left_cancel h)
  omega

/-- An image word's address is none of the controller's registers. -/
theorem wordAddr_clear {cfg : Params} {base len : Word} (h : regionClear cfg base len = true) {k : Nat}
    (hk : k < wordCount len) :
    wordAddr base k ≠ mscAddrb cfg ∧ wordAddr base k ≠ mscWritecmd cfg ∧ wordAddr base k ≠ mscWdata cfg := by
  have := List.all_eq_true.1 h k (List.mem_range.2 hk)
  simp only [List.contains_eq_mem, List.mem_cons, Bool.not_eq_true', decide_eq_false_iff_not, not_or] at this
  exact ⟨this.2.2.1, this.2.1, this.2.2.2.1⟩

section
variable {cfg : Params} {image : List Byte} {base len : Word} {r : RefTarget}

/-- After the enable write no word is programmed yet. -/
theorem RefTarget.Ready.programmed (hl : refLayout cfg = true) (h : r.Ready cfg) :
    (r.memsWritten cfg [(mscWritectrl cfg, cfg.mscWren)]).Programmed cfg image base len 0 :=
  ⟨h.memsWritten _, memWritten_writectrl hl r, fun _ hj => absurd hj (Nat.not_lt_zero _)⟩

/-- One more word programmed: the words before it stay. -/
theorem RefTarget.Programmed.next (hl : refLayout cfg = true) (hclear : regionClear cfg base len = true) {k : Nat}
    (hk : k < wordCount len) (h : r.Programmed cfg image base len k) :
    (r.memsWritten cfg (writeWordWrites cfg image base len k)).Programmed cfg image base len (k + 1) := by
  obtain ⟨hwren, hload⟩ := memsWritten_writeWordWrites hl h.toReady h.wren image base len k
  refine ⟨h.toReady.memsWritten _, hwren, fun j hj => ?_⟩
  obtain ⟨ha, hc, hd⟩ := wordAddr_clear hclear (Nat.lt_of_lt_of_le hj hk)
  rw [hload _ ha hc hd]
  simp only [wordAddr_inj base (Nat.lt_of_lt_of_le hj hk) hk]
  split_ifs with he
  · rw [he]
  · exact h.words j (Nat.lt_of_le_of_ne (Nat.le_of_lt_succ hj) he)

end

/-! ### A state with the target attached. -/

/-- A state whose parameters, image and log are these and whose reference target has property `P`. -/
structure Attached (cfg : Params) (image : List Byte) (l : Log) (P : RefTarget → Prop) (s : State) : Prop where
  cfg : s.cfg = cfg
  image : s.image = image
  target : ∃ r, s.target = some r ∧ P r
  log : s.log = l

namespace Attached

variable {cfg : Params} {image : List Byte} {l : Log} {P Q : RefTarget → Prop} {s : State}

/-- A change of state that touches nothing followed. -/
theorem same {t : State} (h : Attached cfg image l P s)
    (ht : (t.cfg, t.image, t.target, t.log) = (s.cfg, s.image, s.target, s.log)) : Attached cfg image l P t := by
  simp only [Prod.mk.injEq] at ht
  obtain ⟨hc, hi, hr, hl⟩ := ht
  exact ⟨hc.trans h.cfg, hi.trans h.image, hr ▸ h.target, hl.trans h.log⟩

/-- Another way to write the log. -/
theorem cast {l' : Log} (h : Attached cfg image l P s) (hl : l = l') : Attached cfg image l' P s := hl ▸ h

theorem delay (h : Attached cfg image l P s) (us : Nat) :
    Attached cfg image (l.play [.delay us]) P (Machine.delay us s) :=
  ⟨h.cfg, h.image, h.target, h.log ▸ play_log [.delay us] s⟩

theorem setProgress (h : Attached cfg image l P s) (p : Nat) :
    Attached cfg image (l.sets [p]) P (Machine.setProgress p s) :=
  ⟨h.cfg, h.image, h.target, h.log ▸ setProgress_log p s⟩

/-- The progress update after a word (44_flash.md R251, R260). -/
theorem strideProgress (h : Attached cfg image l P s) (lo hi n i : Nat) :
    Attached cfg image (l.sets (if setsProgress cfg i then [wordProgress lo hi n i] else [])) P
      (Machine.strideProgress lo hi n i s) := by
  unfold Machine.strideProgress
  rw [isProgressWord_eq, h.cfg]
  split_ifs
  · exact h.setProgress _
  · exact h.cast (Log.sets_nil l).symm

theorem imp (h : Attached cfg image l P s) (hPQ : ∀ r, P r → Q r) : Attached cfg image l Q s :=
  ⟨h.cfg, h.image, h.target.imp fun r hr => ⟨hr.1, hPQ r hr.2⟩, h.log⟩

/-- An acknowledged write that leaves the target `r`. -/
theorem afterWrite (h : Attached cfg image l P s) (port : Port) (a : BitVec 2) (evs : List PinEvent) (rest : List Bool)
    (k : BitVec 3) {r : RefTarget} (hr : Q r) :
    Attached cfg image (l.play evs) Q (afterTarget r (Machine.afterWrite port a evs rest k s)) :=
  ⟨h.cfg, h.image, ⟨r, rfl, hr⟩, (play_log evs s).trans (congrArg (Log.play evs) h.log)⟩

/-- An acknowledged read that leaves the target `r`. -/
theorem afterRead (h : Attached cfg image l P s) (port : Port) (a : BitVec 2) (evs : List PinEvent) (rest : List Bool)
    (w : Word) (p : Bool) {r : RefTarget} (hr : Q r) :
    Attached cfg image (l.play evs) Q (afterTarget r (Machine.afterRead port a evs rest w p s)) :=
  ⟨h.cfg, h.image, ⟨r, rfl, hr⟩, (play_log evs s).trans (congrArg (Log.play evs) h.log)⟩

/-- The word assembled of an image supplied whole (44_flash.md R250). -/
theorem imageWord_eq (h : Attached cfg image l P s) {len : Word} (hlen : len.toNat ≤ image.length) (i : Nat) :
    imageWord len i s = wordOf image len.toNat i := by
  rw [imageWord_of_supplied len i s (h.image.symm ▸ hlen), h.image]

variable (hd : cfg.ackOk ≠ cfg.ackWait)
include hd

/-- Memory writes to one target succeed, and the target takes them. -/
theorem memWrites_eq (e : ErrorKind) (ws : List (Word × Word)) {r : RefTarget} (hr : r.Ready cfg)
    (h : Attached cfg image l (· = r) s) :
    (Machine.memWrites e ws s).Ends none
      (Attached cfg image (l.play (memWritesEv cfg ws)) (· = r.memsWritten cfg ws)) := by
  induction ws generalizing r l s with
  | nil => exact .ok (h.cast (Log.play_nil l).symm)
  | cons w ws ih =>
    obtain ⟨_, ht, rfl⟩ := h.target
    obtain rfl := h.cfg
    rw [Machine.memWrites, memWriteOr_target e w.1 w.2 _ s ht hr.inject hd, Res.andThen_ok, memWritesEv_cons,
      ← Log.play_play]
    exact ih (hr.memWritten w.1 w.2) (h.afterWrite _ _ _ _ _ rfl)

theorem memWrites (e : ErrorKind) (ws : List (Word × Word)) (hP : ∀ r, P r → r.Ready cfg ∧ Q (r.memsWritten cfg ws))
    (h : Attached cfg image l P s) :
    (Machine.memWrites e ws s).Ends none (Attached cfg image (l.play (memWritesEv cfg ws)) Q) := by
  obtain ⟨r, ht, hr⟩ := h.target
  have hs : Attached cfg image l (· = r) s := ⟨h.cfg, h.image, ⟨r, ht, rfl⟩, h.log⟩
  exact (hs.memWrites_eq hd e ws (hP r hr).1).imp fun t ht => ht.imp fun _ hq => hq ▸ (hP r hr).2

/-! ### Erase. -/

theorem massErase (h : Attached cfg image l (·.Ready cfg) s) :
    (massErase s).Ends none (Attached cfg image (l.play (massEraseEv cfg)) (·.Ready cfg)) := by
  rw [massErase_eq, h.cfg, massEraseEv, ← Log.play_play]
  exact (h.memWrites hd _ (massEraseWrites cfg) fun r hr => ⟨hr, hr.memsWritten _⟩).andThen fun t ht =>
    .ok (ht.cfg ▸ ht.delay t.cfg.tMassSettleUs)

theorem pageErase (pa : Word) (h : Attached cfg image l (·.Ready cfg) s) :
    (pageErase pa s).Ends none (Attached cfg image (l.play (pageEraseEv cfg pa)) (·.Ready cfg)) := by
  rw [pageErase_eq, h.cfg, pageEraseEv, ← Log.play_play]
  exact (h.memWrites hd _ (pageEraseWrites cfg pa) fun r hr => ⟨hr, hr.memsWritten _⟩).andThen fun t ht =>
    .ok (ht.cfg ▸ ht.delay t.cfg.tPageSettleUs)

/-- The first `i` pages erased, `n` left. -/
theorem erasePages_from (base : Word) (pages i n : Nat) (h : Attached cfg image l (·.Ready cfg) s) :
    ∃ t, Attached cfg image ((l.play (erasePagesEv cfg base i)).sets (pageValues cfg pages i)) (·.Ready cfg) t
      ∧ erasePages base pages (i + n) 0 s = erasePages base pages n i t := by
  induction i generalizing n with
  | zero => exact ⟨s, h.cast (by simp [erasePagesEv, pageValues, Log.play_nil, Log.sets_nil]), by simp⟩
  | succ i ih =>
    obtain ⟨t, ht, he⟩ := ih (n + 1)
    have hindex : Attached cfg image _ _ { t with index := i } := ht.same rfl
    obtain ⟨u, hpage, hu⟩ := hindex.pageErase hd (pageAddr t.cfg base i)
    refine ⟨_, (hu.setProgress (u.cfg.pEraseEnd * (i + 1) / pages)).cast ?_, ?_⟩
    · rw [Log.play_sets, Log.play_play, Log.sets_sets, pageValues_succ, hu.cfg, ht.cfg]
      simp [erasePagesEv, List.range_succ]
    · rw [Nat.add_right_comm, Nat.add_assoc, he, erasePages, hpage, Res.andThen_ok]

/-- A `FLASH_ERASE` succeeds (R243). -/
theorem flashErase (base len : Word) (h : Attached cfg image l (·.Ready cfg) s) :
    (flashErase base len s).Ends none (Attached cfg image
      ((l.play (flashEraseEv cfg base len)).sets (eraseValues cfg base len)) (·.Ready cfg)) := by
  rw [Machine.flashErase, h.cfg, flashEraseEv, eraseValues]
  split_ifs
  · exact (h.massErase hd).andThen fun t ht => .ok (ht.cfg ▸ ht.setProgress t.cfg.pEraseEnd)
  · obtain ⟨t, ht, he⟩ := h.erasePages_from hd base (pageCount cfg len) (pageCount cfg len) 0
    rw [Nat.add_zero] at he
    rw [he, erasePages, Res.andThen_ok, ← Log.sets_sets]
    exact .ok (ht.cfg ▸ ht.setProgress t.cfg.pEraseEnd)

/-! ### Write. -/

variable {base len : Word} (hl : refLayout cfg = true) (hclear : regionClear cfg base len = true)
variable (hlen : len.toNat ≤ image.length)
include hl hclear hlen

/-- One more word programmed. -/
theorem writeImageWord {i : Nat} (hi : i < wordCount len)
    (h : Attached cfg image l (·.Programmed cfg image base len i) s) :
    (writeImageWord base len i s).Ends none
      (Attached cfg image (l.play (writeWordEv cfg image base len i)) (·.Programmed cfg image base len (i + 1))) := by
  obtain rfl := h.cfg
  obtain rfl := h.image
  have hindex : Attached s.cfg s.image l _ { s with index := i } := h.same rfl
  rw [writeImageWord_eq_memWrites base i hlen, writeWordEv, ← Log.play_play]
  exact (hindex.memWrites hd _ (writeWordWrites s.cfg s.image base len i) fun r hr =>
    ⟨hr.toReady, hr.next hl hclear hi⟩).andThen fun t ht => .ok (ht.cfg ▸ ht.delay t.cfg.tWordSettleUs)

/-- The first `i` words written, `m` left. -/
theorem writeWords_from (n i m : Nat) (hi : i ≤ wordCount len)
    (h : Attached cfg image l (·.Programmed cfg image base len 0) s) :
    ∃ t, Attached cfg image ((l.play ((List.range i).flatMap (writeWordEv cfg image base len))).sets
        (strideValues cfg cfg.pEraseEnd cfg.pWriteEnd n i)) (·.Programmed cfg image base len i) t
      ∧ writeWords base len n (i + m) 0 s = writeWords base len n m i t := by
  induction i generalizing m with
  | zero => exact ⟨s, h.cast (by simp [strideValues, Log.play_nil, Log.sets_nil]), by simp⟩
  | succ i ih =>
    obtain ⟨t, ht, he⟩ := ih (m + 1) (Nat.le_of_succ_le hi)
    obtain ⟨u, hword, hu⟩ := ht.writeImageWord hd hl hclear hlen hi
    refine ⟨_, (hu.strideProgress u.cfg.pEraseEnd u.cfg.pWriteEnd n i).cast ?_, ?_⟩
    · rw [Log.play_sets, Log.play_play, Log.sets_sets, strideValues_succ, hu.cfg]
      simp [List.range_succ]
    · rw [Nat.add_right_comm, Nat.add_assoc, he, writeWords, hword, Res.andThen_ok]

/-- A `FLASH_WRITE` succeeds, and every image word is at its address (R251). -/
theorem flashWrite (h : Attached cfg image l (·.Ready cfg) s) :
    (flashWrite base len s).Ends none (Attached cfg image ((l.play (flashWriteEv cfg image base len)).sets
      (writeValues cfg len (wordCount len) ++ [cfg.pWriteEnd])) (·.Programmed cfg image base len (wordCount len))) := by
  have hstart : Attached cfg image (l.sets [cfg.pEraseEnd]) (·.Ready cfg) (startWrite s) := by
    obtain rfl := h.cfg
    exact (h.setProgress s.cfg.pEraseEnd).same rfl
  obtain ⟨t, henable, ht⟩ := hstart.memWrites (Q := (·.Programmed cfg image base len 0)) hd .writeFailure
    [(mscWritectrl cfg, cfg.mscWren)] fun r hr => ⟨hr, hr.programmed hl⟩
  obtain ⟨u, hu, he⟩ := ht.writeWords_from hd hl hclear hlen (wordCount len) (wordCount len) 0 le_rfl
  rw [Nat.add_zero] at he
  rw [Machine.flashWrite, memWriteOr_eq_memWrites, h.cfg, henable, Res.andThen_ok, he, writeWords, Res.andThen_ok]
  refine .ok ((hu.setProgress u.cfg.pWriteEnd).cast ?_)
  rw [Log.play_sets, Log.play_sets, Log.play_play, Log.sets_sets, Log.sets_sets, memWritesEv_singleton, hu.cfg]
  rfl

/-! ### Verify. -/

omit hl hclear hlen

/-- A word programmed is read back as the image word. -/
theorem memRead_word {i n : Nat} (hi : i < n) (h : Attached cfg image l (·.Programmed cfg image base len n) s) :
    ∃ t, memRead (wordAddr base i) s = ⟨true, wordOf image len.toNat i, t⟩ ∧ t.errCount = s.errCount
      ∧ Attached cfg image (l.play (verifyReadsEv cfg base i [wordOf image len.toNat i]))
        (·.Programmed cfg image base len n) t := by
  obtain ⟨r, ht, hr⟩ := h.target
  obtain rfl := h.cfg
  have hread := memRead_target (wordAddr base i) r s ht hr.inject hd hr.bank
  rw [hr.words i hi] at hread
  rw [verifyReadsEv, verifyReadsEv, List.append_nil]
  exact ⟨_, hread, rfl, h.afterRead _ _ _ _ _ _ ⟨⟨hr.inject, hr.canonical, hr.bank⟩, hr.wren, hr.words⟩⟩

include hlen

/-- It is no mismatch (R260). -/
theorem verifyImageWord {i n : Nat} (hi : i < n) (h : Attached cfg image l (·.Programmed cfg image base len n) s) :
    (verifyImageWord base len i s).Ends none fun t => t.errCount = s.errCount
      ∧ Attached cfg image (l.play (verifyReadsEv cfg base i [wordOf image len.toNat i]))
        (·.Programmed cfg image base len n) t := by
  have hindex : Attached cfg image l _ { s with index := i } := h.same rfl
  obtain ⟨t, hread, hcount, ht⟩ := hindex.memRead_word hd hi
  rw [Machine.verifyImageWord, hread]
  exact ⟨t, (congrArg (compareWord len i _) (noteImageRead_of_supplied len i (ht.image.symm ▸ hlen))).trans
    (compareWord_of_eq (ht.imageWord_eq hlen i).symm), hcount, ht⟩

/-- The first `i` words compared, `m` left. -/
theorem verifyWords_from (n i m : Nat) {k : Nat} (hi : i ≤ k)
    (h : Attached cfg image l (·.Programmed cfg image base len k) s) :
    ∃ t, Attached cfg image ((l.play (verifyReadsEv cfg base 0 ((List.range i).map (wordOf image len.toNat)))).sets
        (strideValues cfg cfg.pWriteEnd cfg.pVerifyEnd n i)) (·.Programmed cfg image base len k) t
      ∧ t.errCount = s.errCount ∧ verifyWords base len n (i + m) 0 s = verifyWords base len n m i t := by
  induction i generalizing m with
  | zero => exact ⟨s, h.cast (by simp [verifyReadsEv, strideValues, Log.play_nil, Log.sets_nil]), rfl, by simp⟩
  | succ i ih =>
    obtain ⟨t, ht, hct, he⟩ := ih (m + 1) (Nat.le_of_succ_le hi)
    obtain ⟨u, hword, hcu, hu⟩ := ht.verifyImageWord hd hlen hi
    refine ⟨_, (hu.strideProgress u.cfg.pWriteEnd u.cfg.pVerifyEnd n i).cast ?_, ?_, ?_⟩
    · rw [Log.play_sets, Log.play_play, Log.sets_sets, strideValues_succ, hu.cfg]
      simp [List.range_succ, verifyReadsEv_append]
    · rw [strideProgress_errCount, hcu, hct]
    · rw [Nat.add_right_comm, Nat.add_assoc, he, verifyWords, hword, Res.andThen_ok]

/-- A `FLASH_VERIFY` after it counts no mismatch (R263). -/
theorem flashVerify (h : Attached cfg image l (·.Programmed cfg image base len (wordCount len)) s) :
    (flashVerify base len s).Ends none fun t => t.errCount = 0
      ∧ Attached cfg image ((l.play (verifyReadsEv cfg base 0 (imageWords image len))).sets
        (verifyValues cfg len (wordCount len) ++ [cfg.pVerifyEnd]))
        (·.Programmed cfg image base len (wordCount len)) t := by
  obtain rfl := h.cfg
  have hzero : Attached s.cfg image l _ { s with errCount := 0 } := h.same rfl
  have hstart := hzero.setProgress s.cfg.pWriteEnd
  obtain ⟨t, ht, hc, he⟩ := hstart.verifyWords_from hd hlen (wordCount len) (wordCount len) 0 le_rfl
  have hnone : t.errCount = 0 := hc
  have hend : Attached s.cfg image _ _ { t with resData := BitVec.ofNat 32 t.errCount } := ht.same rfl
  rw [Nat.add_zero] at he
  rw [Machine.flashVerify, he, verifyWords, Res.andThen_ok, verifyEnd, if_pos hnone]
  refine .ok ⟨hnone, (hend.setProgress t.cfg.pVerifyEnd).cast ?_⟩
  rw [Log.play_sets, Log.sets_sets, Log.sets_sets, ht.cfg]
  rfl

end Attached

theorem argAddr_of_hostSide {s t : State} (h : t.hostSide = s.hostSide) : t.argAddr = s.argAddr := by
  simp only [State.hostSide, Prod.mk.injEq] at h; exact h.2.2.1

/-- A successful step, reported: the command's next state has `RES_KIND` OK, and nothing followed has changed. -/
theorem Attached.reported {cfg : Params} {image : List Byte} {l : Log} {P : RefTarget → Prop} {i : Instr} {s : State}
    {r : Res} (hexec : exec i s = .next (report r)) (h : r.Ends none (Attached cfg image l P)) :
    ∃ t, exec i s = .next t ∧ t.resKind = .ok ∧ t.argAddr = s.argAddr ∧ t.argLen = s.argLen
      ∧ Attached cfg image l P t := by
  obtain ⟨t, rfl, ht⟩ := h
  have hhost := (commands_reaches.of_exec hexec).host
  exact ⟨_, hexec, rfl, argAddr_of_hostSide hhost, argLen_of_hostSide hhost, ht.same rfl⟩

theorem acks_differ_of_valid {cfg : Params} (h : cfg.valid = true) : cfg.ackOk ≠ cfg.ackWait := by
  simp only [Params.valid, Params.checks, List.all_cons, Bool.and_eq_true, id_eq, decide_eq_true_eq] at h
  exact h.2.2.2.2.1.1

end Sys2Proof.Machine
end

section
/-!
PROOFS. The verify after a write on the reference target.
-/

namespace Sys2Proof.Machine

/-- Settles O52: the write leaves each image word at its address, where the verify reads it. -/
theorem verifyAfterWriteFindsNoMismatch : Obligations.VerifyAfterWriteFindsNoMismatch := by
  unfold Obligations.VerifyAfterWriteFindsNoMismatch
  intro s r hr hm hi hb hv hl hlen _ hclear
  have hd := acks_differ_of_valid hv
  have hs : Attached s.cfg s.image s.log (·.Ready s.cfg) s := ⟨rfl, rfl, ⟨r, hr, hi, hm r hr, hb⟩, rfl⟩
  have herase : exec .flashErase s = .next (report (flashErase s.argAddr s.argLen s)) := rfl
  obtain ⟨t, herase, hkind, haddr, hcount, ht⟩ := Attached.reported herase (hs.flashErase hd s.argAddr s.argLen)
  have hwrite : exec .flashWrite t = .next (report (flashWrite s.argAddr s.argLen t)) := by
    rw [← haddr, ← hcount]
    rfl
  obtain ⟨u, hwrite, hkind', haddr', hcount', hu⟩ := Attached.reported hwrite (ht.flashWrite hd hl hclear hlen)
  have hverify : exec .flashVerify u = .next (report (flashVerify s.argAddr s.argLen u)) := by
    rw [← haddr, ← haddr', ← hcount, ← hcount']
    rfl
  obtain ⟨v, he, hzero, -⟩ := hu.flashVerify hd hlen
  rw [he] at hverify
  exact ⟨t, u, _, herase, hkind, hwrite, hkind', hverify, rfl, hzero⟩

end Sys2Proof.Machine
end

section
/-!
SUPPORT. The orchestrator's smaller operations: the reset-pin diagnostic as events played, and what the blink rule leaves
alone (45_status_orchestrator.md R297, R310 to R312).
-/

namespace Sys2Proof.Machine

/-! ### The reset-pin diagnostic. -/

/-- The events of `n` cycles of nRESET low and high (R312). -/
def pulsesEv (low high n : Nat) : List PinEvent := (List.replicate n (pulseEv low high)).flatten

theorem pulsesEv_succ (low high n : Nat) : pulsesEv low high (n + 1) = pulseEv low high ++ pulsesEv low high n := by
  rw [pulsesEv, List.replicate_succ, List.flatten_cons, pulsesEv]

theorem resetPinCycles_eq_play (n : Nat) (s : State) :
    resetPinCycles n s = play (pulsesEv (s.cfg.rstTestLowMs * 1000) (s.cfg.rstTestHighMs * 1000) n) s := by
  induction n generalizing s with
  | zero => rfl
  | succ n ih => rw [resetPinCycles_succ, ih, pulsesEv_succ, play_append]; rfl

/-- Pulses touch nRESET, which they release, and the time alone. -/
theorem play_pulsesEv (low high n : Nat) (s : State) :
    play (pulsesEv low high n) s = { s with
      nreset := if n = 0 then s.nreset else true
      timeUs := s.timeUs + n * (low + high)
      evRev := (pulsesEv low high n).reverse ++ s.evRev
      stepCount := s.stepCount + 4 * n } := by
  induction n generalizing s with
  | zero => simp [pulsesEv, play_nil]
  | succ n ih =>
    have htime : s.timeUs + (low + high) + n * (low + high) = s.timeUs + (n + 1) * (low + high) := by ring
    have hstep : s.stepCount + 4 + 4 * n = s.stepCount + 4 * (n + 1) := by ring
    have hpulse : play (pulseEv low high) s = { s with
        nreset := true, timeUs := s.timeUs + (low + high), evRev := (pulseEv low high).reverse ++ s.evRev
        stepCount := s.stepCount + 4 } := rfl
    rw [pulsesEv_succ, play_append, ih, hpulse]
    simp only [htime, hstep, ite_self, Nat.succ_ne_zero, if_false, List.reverse_append, List.append_assoc]

/-! ### The LED and the trigger. -/

/-- The blink rule leaves the press alone, so the window rule after it looks at the press of before (R298). -/
theorem windowPassed_blink (now : Nat) (s : State) : windowPassed now (blink now s) = windowPassed now s := by
  unfold blink
  split
  · rfl
  · rfl
  · split_ifs <;> rfl

theorem windowPassed_iff (now : Nat) (s : State) :
    windowPassed now s = true ↔ s.pressPending = true ∧ s.cfg.doubleClickMs ≤ now - s.pressMs := by
  simp [windowPassed]

theorem isDoublePress_iff (t : Nat) (s : State) :
    isDoublePress t s = true ↔ s.pressPending = true ∧ t - s.pressMs < s.cfg.doubleClickMs := by
  simp [isDoublePress]

end Sys2Proof.Machine
end

section
/-!
PROOFS. That every instruction completes, and the statements about the trigger, the LED and the diagnostic.
-/

namespace Sys2Proof.Machine

/-- Settles O15: no instruction stops, and a step waits, refuses a word or runs an instruction. -/
theorem everyInstructionCompletes : Obligations.EveryInstructionCompletes := by
  unfold Obligations.EveryInstructionCompletes
  have hexec : ∀ (i : Instr) (s : State), ∃ t, exec i s = .next t := fun i s =>
    (commands_reaches.exec i s).imp fun t ht => ht.1
  refine ⟨hexec, fun s hv => ?_⟩
  cases hh : s.host with
  | nil => exact ⟨s, by simp [step, hv, hh]⟩
  | cons w rest =>
    cases hd : decode w.frame with
    | error e => exact ⟨_, by simp [step, hv, hh, hd]; rfl⟩
    | ok i =>
      obtain ⟨t, ht⟩ := hexec i (beginCommand i (acceptHostWrite w rest s))
      exact ⟨endCommand t, by rw [step_of_command hv hh hd, ht]; rfl⟩

/-- Settles O53. -/
theorem runIsNotReentered : Obligations.RunIsNotReentered := by
  unfold Obligations.RunIsNotReentered
  intro s h
  exact congrArg Host.Outcome.next (if_pos h)

/-- Settles O58: each cycle is a pulse of four events. -/
theorem resetPinTestTogglesTheResetLine : Obligations.ResetPinTestTogglesTheResetLine := by
  unfold Obligations.ResetPinTestTogglesTheResetLine
  refine ⟨decode_encode .resetPinTest, fun s => congrArg Host.Outcome.next ?_⟩
  rw [resetPinTest, resetPinCycles_eq_play, play_pulsesEv]
  rfl

/-- Settles O59: the blink rule by the status, then the window rule, whose test the blink does not change. -/
theorem tickBlinksAndStartsTheWaitingRun : Obligations.TickBlinksAndStartsTheWaitingRun := by
  unfold Obligations.TickBlinksAndStartsTheWaitingRun
  intro s now toggled blinked
  have hblink : blink now s = blinked := by
    cases hs : s.status <;> simp only [blink, ledMode, hs, blinked, toggled]
  have hwindow : windowPassed now blinked = true ↔ s.pressPending = true ∧ s.cfg.doubleClickMs ≤ now - s.pressMs := by
    rw [← hblink, windowPassed_blink, windowPassed_iff]
  have htick : exec .tick s = .next (triggerWindow now blinked) := by rw [← hblink]; rfl
  rw [htick, triggerWindow]
  exact ⟨fun h => congrArg Host.Outcome.next (if_neg (mt hwindow.1 h)),
    fun hp h => congrArg Host.Outcome.next (if_pos (hwindow.2 ⟨hp, h⟩))⟩

/-- Settles O60: the three cases of the press rule. -/
theorem pressDecidesByTheWindow : Obligations.PressDecidesByTheWindow := by
  unfold Obligations.PressDecidesByTheWindow
  intro s
  have hpress : exec .press s = .next (press s.argData.toNat s) := rfl
  have hlate (h : ¬(s.pressPending = true ∧ s.argData.toNat - s.pressMs < s.cfg.doubleClickMs)) :
      exec .press s = .next (holdPress s.argData.toNat
        (if s.pressPending then run { s with pressPending := false } else s)) := by
    rw [hpress, press, if_neg (mt (isDoublePress_iff _ _).1 h)]
  refine ⟨fun hp h => ?within, fun hp => ?first, fun hp h => ?later⟩
  case within =>
    rw [hpress, press, if_pos ((isDoublePress_iff _ _).2 ⟨hp, h⟩)]
    rfl
  case first =>
    rw [hlate (by simp [hp]), if_neg (by simp [hp])]
    rfl
  case later =>
    rw [hlate (by omega), if_pos hp]
    rfl

end Sys2Proof.Machine
end

section
/-!
SUPPORT. How a run ends, whatever the target answers: what it raises and has notified by then, component by component,
and what it leaves alone (45_status_orchestrator.md R300 to R305).
-/

namespace Sys2Proof.Machine

/-! ### What holds of a step that can fail, either way it ends. -/

/-- `P` holds of the state after success, `E` of a kind raised and the state it is raised in. -/
def Res.Post (P : State → Prop) (E : ErrorKind → State → Prop) : Res → Prop
  | .ok t => P t
  | .raised e t => E e t

namespace Res.Post

variable {P Q : State → Prop} {E : ErrorKind → State → Prop} {r : Res} {f : State → Res}

theorem andThen (h : r.Post P E) (hf : ∀ t, P t → (f t).Post Q E) : (r.andThen f).Post Q E := by
  cases r with
  | ok t => exact hf t h
  | raised e t => exact h

/-- Where nothing is asked of a raised kind, only the last step matters. -/
theorem last (hf : ∀ t, (f t).Post Q fun _ _ => True) : (r.andThen f).Post Q fun _ _ => True := by
  cases r with
  | ok t => exact hf t
  | raised e t => trivial

end Res.Post

/-! ### The kinds each component raises (60_exceptions.md R330). -/

/-- A step raises no kind but these. -/
def Res.Raises (kinds : List ErrorKind) (r : Res) : Prop := r.Post (fun _ => True) fun e _ => e ∈ kinds

theorem Res.Raises.ok {kinds : List ErrorKind} (s : State) : (Res.ok s).Raises kinds := trivial

theorem Res.Raises.andThen {kinds : List ErrorKind} {r : Res} {f : State → Res} (h : r.Raises kinds)
    (hf : ∀ t, (f t).Raises kinds) : (r.andThen f).Raises kinds := Res.Post.andThen h fun t _ => hf t

section
variable {e : ErrorKind} {kinds : List ErrorKind} (he : e ∈ kinds)
include he

theorem checkXfer_raises (rnw : Bool) (s : State) : (checkXfer rnw e s).Raises kinds := by
  unfold checkXfer
  split_ifs
  · exact .ok s
  · exact he

theorem memWrites_raises (ws : List (Word × Word)) (s : State) : (memWrites e ws s).Raises kinds := by
  induction ws generalizing s with
  | nil => exact .ok s
  | cons w ws ih =>
    refine .andThen ?_ ih
    unfold memWriteOr
    split_ifs
    · exact .ok _
    · exact he

end

theorem linkInit_raises (s : State) : (linkInit s).Raises [.linkInitFailure] :=
  .andThen (checkXfer_raises (by simp) _ _) fun _ => .ok _

theorem pollPower_raises (n : Nat) (s : State) : (pollPower n s).Raises [.powerUpTimeout] := by
  induction n generalizing s with
  | zero => exact List.mem_singleton_self _
  | succ n ih =>
    simp only [pollPower]
    split_ifs
    · exact .ok _
    · exact List.mem_singleton_self _
    · exact ih _

theorem powerUp_raises (s : State) : (powerUp s).Raises [.powerUpTimeout] :=
  .andThen (checkXfer_raises (by simp) _ _) fun _ => pollPower_raises _ _

theorem checkLocked_raises (s : State) : (checkLocked s).Raises [.apConfigFailure, .debugLocked] := by
  unfold checkLocked
  split_ifs
  · exact List.mem_cons_of_mem _ (List.mem_singleton_self _)
  · exact .ok s

theorem apConfig_raises (s : State) : (apConfig s).Raises [.apConfigFailure, .debugLocked] := by
  have hx := checkXfer_raises (e := .apConfigFailure) (kinds := [.apConfigFailure, .debugLocked]) (by simp)
  exact .andThen (hx _ _) fun _ => .andThen (hx _ _) fun t => .andThen (checkLocked_raises _) fun _ =>
    .andThen (hx _ _) fun _ => hx _ _

theorem cpuHalt_raises (s : State) : (cpuHalt s).Raises [.haltFailure] := by
  rw [cpuHalt_eq_memWrites]
  exact memWrites_raises (by simp) _ s

theorem cpuReset_raises (s : State) : (cpuReset s).Raises [.haltFailure] := by
  rw [cpuReset_eq_memWrites]
  exact memWrites_raises (by simp) _ s

theorem massErase_raises (s : State) : (massErase s).Raises [.eraseFailure] := by
  rw [massErase_eq]
  exact .andThen (memWrites_raises (by simp) _ s) fun _ => .ok _

theorem pageErase_raises (pa : Word) (s : State) : (pageErase pa s).Raises [.eraseFailure] := by
  rw [pageErase_eq]
  exact .andThen (memWrites_raises (by simp) _ s) fun _ => .ok _

theorem erasePages_raises (base : Word) (pages n i : Nat) (s : State) :
    (erasePages base pages n i s).Raises [.eraseFailure] := by
  induction n generalizing i s with
  | zero => exact .ok s
  | succ n ih => exact .andThen (pageErase_raises _ _) fun _ => ih _ _

theorem flashErase_raises (base len : Word) (s : State) : (flashErase base len s).Raises [.eraseFailure] := by
  refine .andThen ?_ fun _ => .ok _
  split_ifs
  · exact massErase_raises s
  · exact erasePages_raises base _ _ 0 s

theorem writeImageWord_raises (base len : Word) (k : Nat) (s : State) :
    (writeImageWord base len k s).Raises [.writeFailure] := by
  rw [writeImageWord_eq]
  exact .andThen (memWrites_raises (by simp) _ _) fun _ => .andThen (memWrites_raises (by simp) _ _) fun _ => .ok _

theorem writeWords_raises (base len : Word) (n m k : Nat) (s : State) :
    (writeWords base len n m k s).Raises [.writeFailure] := by
  induction m generalizing k s with
  | zero => exact .ok s
  | succ m ih => exact .andThen (writeImageWord_raises base len k s) fun _ => ih _ _

theorem flashWrite_raises (base len : Word) (s : State) : (flashWrite base len s).Raises [.writeFailure] := by
  rw [flashWrite, memWriteOr_eq_memWrites]
  exact .andThen (memWrites_raises (by simp) _ _) fun _ => .andThen (writeWords_raises base len _ _ 0 _) fun _ => .ok _

theorem compareWord_raises (len : Word) (k : Nat) (w : Word) (s : State) :
    (compareWord len k w s).Raises [.verifyFailure] := by
  unfold compareWord
  split_ifs
  · exact .ok s
  · exact List.mem_singleton_self _
  · exact .ok _

theorem verifyWords_raises (base len : Word) (n m k : Nat) (s : State) :
    (verifyWords base len n m k s).Raises [.verifyFailure] := by
  induction m generalizing k s with
  | zero => exact .ok s
  | succ m ih => exact .andThen (compareWord_raises _ _ _ _) fun _ => ih _ _

theorem verifyEnd_raises (s : State) : (verifyEnd s).Raises [.verifyFailure] := by
  simp only [verifyEnd]
  split_ifs
  · exact .ok _
  · exact List.mem_singleton_self _

theorem flashVerify_raises (base len : Word) (s : State) : (flashVerify base len s).Raises [.verifyFailure] :=
  .andThen (verifyWords_raises base len _ _ 0 _) verifyEnd_raises

/-! ### The statuses notified (R300, R303). -/

/-- Since the notifications were `n`, these statuses were notified and no other. -/
def Notified (n : List Note) (v : List Status) (t : State) : Prop := ∃ l, t.note = n ++ l ∧ statusesOf l = v

theorem Notified.setStatus {n : List Note} {v : List Status} {t : State} (h : Notified n v t) (x : Status) :
    Notified n (v ++ [x]) (setStatus x t) := by
  obtain ⟨l, hl, hv⟩ := h
  exact ⟨l ++ [.status x], by simp [hl], by simp [hv, statusesOf]⟩

theorem Notified.quiet {n : List Note} {v : List Status} {s t : State} (h : Notified n v s) (hq : Quiet s t) :
    Notified n v t := by
  obtain ⟨l, hl, hv⟩ := h
  obtain ⟨m, hm, hnone⟩ := hq
  exact ⟨l ++ m, by rw [hm, hl, List.append_assoc], by rw [statusesOf_append, hv, hnone, List.append_nil]⟩

/-- A part of a run: on success the statuses notified since `n` are `v`, and a kind is raised after statuses with which
the run may abort with it. -/
def Res.InPhase (n : List Note) (v : List Status) : Res → Prop :=
  Res.Post (Notified n v) fun e t => ∃ ph ∈ abortStatuses e, Notified n ph t

/-- A component that notifies no status and raises kinds of the present phase alone. -/
theorem Res.InPhase.component {n : List Note} {v : List Status} {kinds : List ErrorKind} {s : State} {r : Res}
    (h : Notified n v s) (hq : Quiet s r.st) (hr : r.Raises kinds)
    (hk : ∀ e ∈ kinds, v ∈ abortStatuses e := by decide) : r.InPhase n v := by
  cases r with
  | ok t => exact h.quiet hq
  | raised e t => exact ⟨v, hk e hr, h.quiet hq⟩

/-- The components of a run, phase by phase. -/
theorem runSteps_inPhase {n : List Note} (base len : Word) {s : State} (h : Notified n [.initializing] s) :
    (runSteps base len s).InPhase n [.initializing, .programming, .verifying] := by
  have steady {s t : State} (hp : t.progressPart = s.progressPart) : Quiet s t := .of_note (congrArg (·.2.2) hp)
  have wire {s t : State} (hw : OnWire s t) : Quiet s t := walk_quiet.wire hw
  refine (Res.InPhase.component h (steady (linkInit_progressPart s)) (linkInit_raises s)).andThen fun s h => ?_
  refine (Res.InPhase.component h (wire (.powerUp s)) (powerUp_raises s)).andThen fun s h => ?_
  refine (Res.InPhase.component h (steady (apConfig_progressPart s)) (apConfig_raises s)).andThen fun s h => ?_
  refine (Res.InPhase.component h (wire (.cpuHalt s)) (cpuHalt_raises s)).andThen fun s h => ?_
  refine (Res.InPhase.component (h.setStatus .programming) (.flashErase ..) (flashErase_raises ..)).andThen
    fun s h => ?_
  refine (Res.InPhase.component h (.flashWrite ..) (flashWrite_raises ..)).andThen fun s h => ?_
  refine (Res.InPhase.component (h.setStatus .verifying) (.flashVerify ..) (flashVerify_raises ..)).andThen
    fun s h => ?_
  exact Res.InPhase.component h (wire (.cpuReset s)) (cpuReset_raises s)

/-! ### The progress of a run that succeeds. -/

theorem verifyEnd_progress (s : State) :
    (verifyEnd s).Post (fun t => t.progress = t.cfg.pVerifyEnd) fun _ _ => True := by
  simp only [verifyEnd]
  split_ifs
  · rfl
  · trivial

/-- `CPU_RESET` comes after the last progress set (R240, R300). -/
theorem runSteps_progress (base len : Word) (s : State) :
    (runSteps base len s).Post (fun t => t.progress = t.cfg.pVerifyEnd) fun _ _ => True := by
  have hreset (t : State) (h : t.progress = t.cfg.pVerifyEnd) :
      (cpuReset t).Post (fun t => t.progress = t.cfg.pVerifyEnd) fun _ _ => True := by
    have hw := walk_progressPart.wire (OnWire.cpuReset t)
    cases hr : cpuReset t with
    | ok u =>
      simp only [hr, Res.st_ok, State.progressPart, Prod.mk.injEq] at hw
      obtain ⟨hcfg, hprog, -⟩ := hw
      exact (hprog.trans h).trans (congrArg Params.pVerifyEnd hcfg.symm)
    | raised e u => trivial
  exact .last fun _ => .last fun _ => .last fun _ => .last fun _ => .last fun _ => .last fun _ =>
    (Res.Post.last verifyEnd_progress).andThen hreset

/-! ### What a run leaves alone. -/

/-- The parameters, the LED and trigger state, `RES_ACK` and, but for the abort, `REG.last_error`. -/
def State.besideRun (s : State) : Params × Bool × Nat × Bool × Nat × BitVec 3 × Option ErrorKind :=
  (s.cfg, s.led, s.ledLastMs, s.pressPending, s.pressMs, s.resAck, s.lastError)

theorem fields_of_besideRun {s t : State} (h : t.besideRun = s.besideRun) :
    t.cfg = s.cfg ∧ t.led = s.led ∧ t.ledLastMs = s.ledLastMs ∧ t.pressPending = s.pressPending
      ∧ t.pressMs = s.pressMs ∧ t.resAck = s.resAck ∧ t.lastError = s.lastError := by
  simpa only [State.besideRun, Prod.mk.injEq] using h

theorem walk_besideRun : Walk fun s t => t.besideRun = s.besideRun :=
  .keeps State.besideRun fun h => (congrArg State.besideRun h.offWire :)

theorem deviceParameters_besideRun (s : State) : (deviceParameters s).besideRun = s.besideRun := by
  rw [deviceParameters_eq]
  rfl

theorem compareWord_besideRun (len : Word) (k : Nat) (w : Word) (s : State) :
    (compareWord len k w s).st.besideRun = s.besideRun := by
  unfold compareWord
  split_ifs <;> rfl

theorem verifyEnd_besideRun (s : State) : (verifyEnd s).st.besideRun = s.besideRun := by
  simp only [verifyEnd]
  split_ifs <;> rfl

theorem runSteps_besideRun (base len : Word) (s : State) : (runSteps base len s).st.besideRun = s.besideRun :=
  walk_besideRun.runSteps
    (walk_besideRun.linkInit (fun s => hwResetPulse_eq_play s ▸ rfl) (fun _ => rfl) fun _ => rfl)
    (walk_besideRun.apConfig (fun _ => rfl) (fun _ => rfl) deviceParameters_besideRun) (fun _ _ => rfl)
    (walk_besideRun.flashErase (fun _ _ => rfl) (fun _ _ => rfl) base len)
    (walk_besideRun.flashWrite (fun _ _ => rfl) (fun _ _ => rfl) (fun _ _ _ => rfl) base len)
    (walk_besideRun.flashVerify (fun _ _ => rfl) (fun _ _ => rfl) (fun _ _ _ => rfl) compareWord_besideRun
      (fun _ => rfl) verifyEnd_besideRun base len) s

end Sys2Proof.Machine
end

section
/-!
PROOFS. How a run ends.
-/

namespace Sys2Proof.Machine

/-- Settles O55: each component raises kinds of its own, in the phase the run is in. -/
theorem runsEndInSuccessOrOneError : Obligations.RunsEndInSuccessOrOneError := by
  unfold Obligations.RunsEndInSuccessOrOneError
  intro s t hidle h
  rw [exec_run_of_idle hidle] at h
  cases h
  have hstart : Notified s.note [.initializing] (startRun s) := ⟨[.status .initializing], by simp [startRun], rfl⟩
  have hphase := runSteps_inPhase s.argAddr s.argLen hstart
  have hprog := runSteps_progress s.argAddr s.argLen (startRun s)
  have hbeside : _ = s.besideRun := runSteps_besideRun s.argAddr s.argLen (startRun s)
  generalize runSteps s.argAddr s.argLen (startRun s) = r at *
  cases r with
  | ok u =>
    obtain ⟨l, hl, hv⟩ := Notified.setStatus hphase .success
    obtain ⟨hcfg, hled, hlast, hpending, hpress, hack, herror⟩ := fields_of_besideRun hbeside
    exact ⟨rfl, rfl, hled, hlast, hpending, hpress, hack, l, hl,
      .inl ⟨rfl, rfl, hprog.trans (congrArg Params.pVerifyEnd hcfg), herror, hv⟩⟩
  | raised e u =>
    obtain ⟨ph, hmem, hnotified⟩ := hphase
    obtain ⟨l, hl, hv⟩ := hnotified.setStatus .error
    obtain ⟨-, hled, hlast, hpending, hpress, hack, -⟩ := fields_of_besideRun hbeside
    exact ⟨rfl, rfl, hled, hlast, hpending, hpress, hack, l, hl, .inr ⟨e, rfl, rfl, rfl, ph, hmem, hv⟩⟩

end Sys2Proof.Machine
end

section
/-!
SUPPORT. A run with the reference target of 20_memory.md R80 attached, not locked and no ACK injected: each component
succeeds, and what it makes of the target (45_status_orchestrator.md R300).
-/

namespace Sys2Proof.Machine

/-- CTRL/STAT as the reference target gives it after the power-up request (20_memory.md R80). -/
def poweredStat (cfg : Params) : Word := cfg.pwrReq ||| ((cfg.pwrReq &&& cfg.pwrReq) <<< 1)

section
variable {cfg : Params} (hl : refLayout cfg = true)
include hl

/-- AIRCR is none of the controller's registers that commands are written to. -/
theorem aircr_of_refLayout : cfg.aircrAddr ≠ mscWritecmd cfg := by
  simp only [refLayout, Bool.and_eq_true, decide_eq_true_eq, List.nodup_cons, List.mem_cons, not_or] at hl
  obtain ⟨⟨⟨⟨⟨⟨⟨-, ⟨-, -, haircr, -⟩, -⟩, -⟩, -⟩, -⟩, -⟩, -⟩, -⟩ := hl
  exact Ne.symm haircr

/-- The power-up request sets both acknowledges, the second SELECT leaves bank 0xF, and at least one poll is made. -/
theorem connection_of_refLayout :
    poweredUp cfg (poweredStat cfg) = true ∧ cfg.selIdrBank.extractLsb' 4 4 = 0xF
      ∧ cfg.selBank0.extractLsb' 4 4 ≠ 0xF ∧ 0 < cfg.nPoll := by
  simp only [refLayout, Bool.and_eq_true, decide_eq_true_eq] at hl
  obtain ⟨⟨⟨⟨-, hpower⟩, hidr⟩, hbank⟩, hpoll⟩ := hl
  exact ⟨hpower, hidr, hbank, hpoll⟩

end

/-- No image word's address is AIRCR's. -/
theorem wordAddr_ne_aircr {cfg : Params} {base len : Word} (h : regionClear cfg base len = true) {k : Nat}
    (hk : k < wordCount len) : wordAddr base k ≠ cfg.aircrAddr := by
  have := List.all_eq_true.1 h k (List.mem_range.2 hk)
  simp only [List.contains_eq_mem, List.mem_cons, Bool.not_eq_true', decide_eq_false_iff_not, not_or] at this
  exact this.2.2.2.2.1

/-- The target holds every image word at its address. -/
def RefTarget.Holds (cfg : Params) (image : List Byte) (base len : Word) (r : RefTarget) : Prop :=
  ∀ k < wordCount len, r.load cfg (wordAddr base k) = wordOf image len.toNat k

/-- The write of AIRCR leaves the words programmed. -/
theorem RefTarget.Programmed.holds_after_reset {cfg : Params} {image : List Byte} {base len : Word} {r : RefTarget}
    (hl : refLayout cfg = true) (hclear : regionClear cfg base len = true)
    (h : r.Programmed cfg image base len (wordCount len)) :
    (r.memsWritten cfg [(cfg.aircrAddr, cfg.aircrReset)]).Holds cfg image base len := fun k hk => by
  rw [← h.words k hk]
  exact (r.load_memWritten cfg _ cfg.aircrReset _ (aircr_of_refLayout hl) h.canonical).trans
    (if_neg (wordAddr_ne_aircr hclear hk))

namespace Attached

variable {cfg : Params} {image : List Byte} {l : Log} {P : RefTarget → Prop} {s : State} {r : RefTarget}

theorem play (h : Attached cfg image l P s) (evs : List PinEvent) :
    Attached cfg image (l.play evs) P (Machine.play evs s) :=
  ⟨h.cfg, h.image, h.target, h.log ▸ play_log evs s⟩

theorem setStatus (h : Attached cfg image l P s) (v : Status) :
    Attached cfg image (l.status v) P (Machine.setStatus v s) :=
  ⟨h.cfg, h.image, h.target, h.log ▸ rfl⟩

theorem ensureSession (h : Attached cfg image l P s) : Attached cfg image l P (Machine.ensureSession s) := h.same rfl

theorem deviceParameters (h : Attached cfg image l P s) : Attached cfg image l P (Machine.deviceParameters s) := by
  rw [deviceParameters_eq]
  exact h.same rfl

/-! ### Transactions. -/

section
variable (hd : cfg.ackOk ≠ cfg.ackWait)
include hd

/-- A write is acknowledged, and the target takes it. -/
theorem write_ok (e : ErrorKind) (port : Port) (a : BitVec 2) (v : Word) (h : Attached cfg image l (· = r) s)
    (hi : r.inject = []) :
    (checkXfer false e (xfer port false a v s)).Ends none
      (Attached cfg image (l.play (writeOkEv cfg port a v)) (· = r.write cfg port a v)) := by
  obtain ⟨_, ht, rfl⟩ := h.target
  obtain rfl := h.cfg
  rw [xfer_write_target port a v _ s ht hi hd, checkXfer_of_ok (xferOk_write rfl)]
  exact .ok (h.afterWrite _ _ _ _ _ rfl)

/-- A read whose value the target gives. -/
theorem xfer_read {port : Port} {a : BitVec 2} {w : Word} (h : Attached cfg image l (· = r) s) (hi : r.inject = [])
    (hw : r.read cfg port a = some w) :
    Attached cfg image (l.play (readOkEv cfg port a w (evenParity w))) (· = r) (xfer port true a 0 s)
      ∧ (xfer port true a 0 s).rdata = w ∧ xferOk true (xfer port true a 0 s) = true := by
  obtain ⟨_, ht, rfl⟩ := h.target
  obtain rfl := h.cfg
  rw [xfer_read_target port a 0 w _ s ht hi hd hw]
  exact ⟨h.afterRead _ _ _ _ _ _ rfl, rfl, xferOk_read rfl (parityAccepted_even _ _)⟩

/-! ### Link, power and access port (42_link_power_ap_cpu.md R173, R180, R190). -/

theorem linkInit (h : Attached cfg image l (· = r) s) (hi : r.inject = []) :
    (linkInit s).Ends none (Attached cfg image
      (l.play (linkSequenceEv cfg ++ readOkEv cfg .dp 0 r.idcode (evenParity r.idcode))) (· = r)) := by
  obtain ⟨hread, -, hok⟩ := (h.ensureSession.play (linkSequenceEv cfg)).xfer_read (port := .dp) (a := 0) hd hi rfl
  rw [linkInit_eq, h.cfg, checkXfer_of_ok hok, ← Log.play_play]
  exact .ok (hread.same rfl)

/-- The first poll shows both acknowledges. -/
theorem powerUp (hl : refLayout cfg = true) (h : Attached cfg image l (· = r) s) (hi : r.inject = []) :
    (powerUp s).Ends none (Attached cfg image
      (l.play (writeOkEv cfg .dp 1 cfg.pwrReq
        ++ readOkEv cfg .dp 1 (poweredStat cfg) (evenParity (poweredStat cfg))))
      (· = { r with ctrlstat := cfg.pwrReq })) := by
  obtain ⟨hpower, -, -, hpoll⟩ := connection_of_refLayout hl
  obtain ⟨n, hn⟩ : ∃ n, cfg.nPoll = n + 1 := ⟨cfg.nPoll - 1, by omega⟩
  rw [Machine.powerUp, h.cfg, ← Log.play_play]
  refine (h.write_ok hd .powerUpTimeout .dp 1 cfg.pwrReq hi).andThen fun t ht => ?_
  have hstat : (r.write cfg .dp 1 cfg.pwrReq).read cfg .dp 1 = some (poweredStat cfg) := rfl
  obtain ⟨hread, hdata, hok⟩ := ht.xfer_read hd hi hstat
  have hpowered : (xferOk true (dpRead 1 t) && poweredUp (dpRead 1 t).cfg (dpRead 1 t).rdata) = true := by
    rw [dpRead, hok, hdata, hread.cfg]
    exact hpower
  rw [ht.cfg, hn, pollPower_powered hpowered]
  exact .ok hread

/-- The part is not locked, and its access port is left outside bank 0xF. -/
theorem apConfig (hl : refLayout cfg = true) (h : Attached cfg image l (· = r) s) (hi : r.inject = [])
    (hidr : r.idr ≠ cfg.idrLocked) (hm : r.canonical cfg) :
    (apConfig s).Ends none (Attached cfg image
      (l.play (writeOkEv cfg .dp 2 cfg.selIdrBank ++ (readOkEv cfg .ap 3 r.idr (evenParity r.idr)
        ++ (writeOkEv cfg .dp 2 cfg.selBank0 ++ writeOkEv cfg .ap 0 cfg.cswValue)))) (·.Ready cfg)) := by
  obtain ⟨-, hbank, hbank0, -⟩ := connection_of_refLayout hl
  rw [apConfig_eq, h.cfg, ← Log.play_play, ← Log.play_play, ← Log.play_play]
  refine (h.ensureSession.write_ok hd .apConfigFailure .dp 2 cfg.selIdrBank hi).andThen fun t ht => ?_
  have hread : (r.write cfg .dp 2 cfg.selIdrBank).read cfg .ap 3 = some r.idr := congrArg some (if_pos hbank)
  obtain ⟨htaken, hdata, hok⟩ := ht.xfer_read hd hi hread
  have hopen : (xfer .ap true 3 0 t).rdata ≠ (xfer .ap true 3 0 t).cfg.idrLocked := by
    rw [hdata, htaken.cfg]
    exact hidr
  have haccepted : Attached cfg image _ (· = r.write cfg .dp 2 cfg.selIdrBank) (acceptIdr (xfer .ap true 3 0 t)) :=
    htaken.same rfl
  rw [takeIdr, checkXfer_of_ok hok, Res.andThen_ok, checkLocked_of_not_locked (s := acceptIdr _) hopen, Res.andThen_ok,
    configurePort, haccepted.cfg]
  refine (haccepted.deviceParameters.write_ok hd .apConfigFailure .dp 2 cfg.selBank0 hi).andThen fun u hu => ?_
  rw [hu.cfg]
  refine (hu.write_ok hd .apConfigFailure .ap 0 cfg.cswValue hi).imp fun v hv => hv.imp fun _ hq => ?_
  exact hq ▸ ⟨hi, hm, hbank0⟩

end

/-! ### CPU control (42_link_power_ap_cpu.md R200, R201). -/

theorem cpuHalt (hd : cfg.ackOk ≠ cfg.ackWait) (h : Attached cfg image l (·.Ready cfg) s) :
    (cpuHalt s).Ends none (Attached cfg image (l.play (memWritesEv cfg (haltWrites cfg))) (·.Ready cfg)) := by
  rw [cpuHalt_eq_memWrites, h.cfg]
  exact h.memWrites hd _ _ fun r hr => ⟨hr, hr.memsWritten _⟩

/-- The release reset after the verify leaves the image where it is. -/
theorem cpuReset {base len : Word} (hd : cfg.ackOk ≠ cfg.ackWait) (hl : refLayout cfg = true)
    (hclear : regionClear cfg base len = true)
    (h : Attached cfg image l (·.Programmed cfg image base len (wordCount len)) s) :
    (cpuReset s).Ends none
      (Attached cfg image (l.play (memWriteEv cfg cfg.aircrAddr cfg.aircrReset)) (·.Holds cfg image base len)) := by
  rw [cpuReset_eq_memWrites, h.cfg, ← memWritesEv_singleton cfg (cfg.aircrAddr, cfg.aircrReset)]
  exact h.memWrites hd _ _ fun r hr => ⟨hr.toReady, hr.holds_after_reset hl hclear⟩

end Attached

/-! ### The whole run. -/

theorem runLog_programming (s : State) (evs xs : List PinEvent) (vals ws : List Nat) :
    ((runLog s evs (programmingNotes vals)).play xs).sets ws
      = runLog s (evs ++ xs) (programmingNotes (vals ++ ws)) := by
  rw [runLog_play, runLog_sets_programming]

theorem runLog_verifying (s : State) (evs xs : List PinEvent) (cfg : Params) (base len : Word) (vals ws : List Nat) :
    ((runLog s evs (verifyingNotes cfg base len vals)).play xs).sets ws
      = runLog s (evs ++ xs) (verifyingNotes cfg base len (vals ++ ws)) := by
  rw [runLog_play, runLog_sets_verifying]

/-- The status that starts the verify comes after the progress of the write. -/
theorem runLog_start_verifying (s : State) (evs : List PinEvent) (cfg : Params) (base len : Word) :
    (runLog s evs (programmingNotes
      (eraseValues cfg base len ++ (writeValues cfg len (wordCount len) ++ [cfg.pWriteEnd])))).status .verifying
      = runLog s evs (verifyingNotes cfg base len []) := by
  simp [runLog_status, verifyingNotes, progressNotes]

/-- The events of the connection, one component after another. -/
theorem connectingEv_whole (cfg : Params) (w v x : Word) :
    connectingEv cfg w v x 7 = linkSequenceEv cfg ++ readOkEv cfg .dp 0 w (evenParity w)
      ++ (writeOkEv cfg .dp 1 cfg.pwrReq ++ readOkEv cfg .dp 1 v (evenParity v))
      ++ (writeOkEv cfg .dp 2 cfg.selIdrBank ++ (readOkEv cfg .ap 3 x (evenParity x)
        ++ (writeOkEv cfg .dp 2 cfg.selBank0 ++ writeOkEv cfg .ap 0 cfg.cswValue))) := by
  simp [connectingEv, connection, sentEv]

section
variable {s : State} {r : RefTarget} (hd : s.cfg.ackOk ≠ s.cfg.ackWait) (hl : refLayout s.cfg = true)
  (hr : s.target = some r) (hi : r.inject = []) (hm : r.canonical s.cfg) (hidr : r.idr ≠ s.cfg.idrLocked)
include hd hl hr hi hm hidr

/-- The link, the power and the access port, and the halt. -/
theorem run_halts_target {f : State → Res} {Q : State → Prop}
    (hf : ∀ t, Attached s.cfg s.image (runLog s (haltedEv s.cfg r.idcode (poweredStat s.cfg) r.idr)
      [.status .initializing]) (·.Ready s.cfg) t → (f t).Ends none Q) :
    ((linkInit (startRun s)).andThen fun s => (powerUp s).andThen fun s => (apConfig s).andThen fun s =>
      (cpuHalt s).andThen f).Ends none Q := by
  have hstart : Attached s.cfg s.image (runLog s [] [.status .initializing]) (· = r) (startRun s) :=
    ⟨rfl, rfl, ⟨r, hr, rfl⟩, by simp [State.log, startRun, runLog, progressOf, State.ev]⟩
  refine (hstart.linkInit hd hi).andThen fun a ha => ?_
  refine (ha.powerUp hd hl hi).andThen fun b hb => ?_
  refine (hb.apConfig hd hl hi hidr hm).andThen fun c hc => ?_
  refine (hc.cpuHalt hd).andThen fun t ht => hf t (ht.cast ?_)
  rw [runLog_play, runLog_play, runLog_play, runLog_play, haltedEv, connectingEv_whole]
  rfl

/-- Every component succeeds, and at the end the image is in the target's memory. -/
theorem runSteps_target (hlen : s.argLen.toNat ≤ s.image.length)
    (hclear : regionClear s.cfg s.argAddr s.argLen = true) :
    (runSteps s.argAddr s.argLen (startRun s)).Ends none (Attached s.cfg s.image
      (runLog s (runEv s.cfg r.idcode (poweredStat s.cfg) r.idr s.image s.argAddr s.argLen)
        (verifyingNotes s.cfg s.argAddr s.argLen
          (verifyValues s.cfg s.argLen (wordCount s.argLen) ++ [s.cfg.pVerifyEnd])))
      (·.Holds s.cfg s.image s.argAddr s.argLen)) := by
  refine run_halts_target hd hl hr hi hm hidr fun t ht => ?_
  have hprogramming := (ht.setStatus .programming).cast (runLog_status _ _ _ _)
  refine (hprogramming.flashErase hd s.argAddr s.argLen).andThen fun u hu => ?_
  have herased := hu.cast (runLog_programming s _ _ [] _)
  refine (herased.flashWrite hd hl hclear hlen).andThen fun v hv => ?_
  have hwritten := hv.cast (runLog_programming s _ _ _ _)
  have hverifying := (hwritten.setStatus .verifying).cast (runLog_start_verifying s _ _ _ _)
  refine (hverifying.flashVerify hd hlen).andThen fun x ⟨_, hx⟩ => ?_
  have hverified := hx.cast (runLog_verifying s _ _ _ _ _ [] _)
  exact (hverified.cpuReset hd hl hclear).imp fun y hy => hy.cast (runLog_play ..)

end

end Sys2Proof.Machine
end

section
/-!
PROOFS. A run on the reference target.
-/

namespace Sys2Proof.Machine

/-- Settles O54: the run's components succeed one after another, and its end notifies `Success`. -/
theorem runProgramsTheReferenceTarget : Obligations.RunProgramsTheReferenceTarget := by
  unfold Obligations.RunProgramsTheReferenceTarget
  intro s r hr hmem hi hidle hv hl hidr hlen _ hclear
  have hbeside : _ = s.besideRun := runSteps_besideRun s.argAddr s.argLen (startRun s)
  obtain ⟨u, hu, hat⟩ := runSteps_target (acks_differ_of_valid hv) hl hr hi (hmem r hr) hidr hlen hclear
  rw [hu] at hbeside
  obtain ⟨-, -, -, -, -, -, herror⟩ := fields_of_besideRun hbeside
  obtain ⟨q, hq, hholds⟩ := hat.target
  have hprog := runSteps_progress s.argAddr s.argLen (startRun s)
  rw [hu] at hprog
  refine ⟨_, q, exec_run_of_idle hidle, ?_⟩
  rw [hu]
  exact ⟨hq, rfl, rfl, hprog.trans (congrArg Params.pVerifyEnd hat.cfg), rfl, rfl, herror, congrArg Log.ev hat.log,
    congrArg (· ++ [Note.status .success]) (congrArg Log.note hat.log), hholds⟩

end Sys2Proof.Machine
end

section
/-!
SUPPORT. What a component command reports; and a flash write on a script whose image may be short: which model faults it
records (44_flash.md R251, 60_exceptions.md R330, R345).
-/

namespace Sys2Proof.Machine

/-! ### What a command reports (60_exceptions.md R335). -/

/-- A command reports `OK` or a kind that its procedure raises. -/
theorem report_resKind_mem {kinds : List ErrorKind} {r : Res} (h : r.Raises kinds) :
    (report r).resKind ∈ .ok :: kinds.map .error := by
  cases r with
  | ok t => exact List.mem_cons_self
  | raised e t => exact List.mem_cons_of_mem _ (List.mem_map_of_mem h)

theorem resErrorCode_of_error {s : State} {e : ErrorKind} (h : s.resKind = .error e) :
    resErrorCode s = some (errorCode e) := by simp only [resErrorCode, h]

/-! ### Model faults of image reads. -/

/-- The model faults recorded after the image words `ks` have been assembled, from `fs` on. -/
def faultsAfterReads (image : List Byte) (len : Word) (ks : List Nat) (fs : List Fault) : List Fault :=
  if ks.any (readsPastImage image len.toNat) then recorded .imageShort fs else fs

theorem faultsAfterReads_cons (image : List Byte) (len : Word) (k : Nat) (ks : List Nat) (fs : List Fault) :
    faultsAfterReads image len (k :: ks) fs = faultsAfterReads image len ks (faultsAfterReads image len [k] fs) := by
  cases hk : readsPastImage image len.toNat k <;> simp [faultsAfterReads, hk]

theorem noteImageRead_faults (len : Word) (k : Nat) (s : State) :
    (noteImageRead len k s).faults = faultsAfterReads s.image len [k] s.faults := by simp [faultsAfterReads]

/-- Some word of a short image is one that a byte is missing of: the word of the first missing byte. -/
theorem faultsAfterReads_of_short {image : List Byte} {len : Word} (h : image.length < len.toNat) (fs : List Fault) :
    faultsAfterReads image len (List.range' 0 (wordCount len)) fs = recorded .imageShort fs := by
  refine if_pos (List.any_eq_true.2 ⟨image.length / 4, ?_, ?_⟩)
  · rw [List.mem_range'_1, wordCount_eq]
    omega
  · simp only [readsPastImage, List.any_cons, List.any_nil, Bool.or_false, Bool.or_eq_true, Bool.and_eq_true,
      decide_eq_true_eq]
    omega

theorem OnWire.faults {s t : State} (h : OnWire s t) : t.faults = s.faults := (congrArg State.faults h.offWire :)

/-- A model fault recorded stays recorded, whatever the target answers. -/
theorem Reaches.mem_faults {len : Nat} {s t : State} {f : Fault} (h : Reaches len s t) (hf : f ∈ s.faults) :
    f ∈ t.faults := by
  obtain he | he := h.fault.1
  · exact he ▸ hf
  · exact he ▸ mem_recorded.2 (.inr hf)

/-! ### A flash write of an image that may be short (44_flash.md R251). -/

/-- A state on a script whose log is not followed, with the model faults `fs` recorded. -/
structure OnScript (cfg : Params) (image : List Byte) (fs : List Fault) (ans : List Bool) (s : State) : Prop where
  script : ∃ l, At cfg image l ans s
  faults : s.faults = fs

namespace OnScript

variable {cfg : Params} {image : List Byte} {fs : List Fault} {ans : List Bool} {s : State}

theorem index (h : OnScript cfg image fs ans s) (i : Nat) : OnScript cfg image fs ans { s with index := i } :=
  ⟨h.script.imp fun _ hl => hl.index i, h.faults⟩

theorem delay (h : OnScript cfg image fs ans s) (us : Nat) : OnScript cfg image fs ans (delay us s) :=
  ⟨h.script.elim fun _ hl => ⟨_, hl.delay us⟩, h.faults⟩

theorem setProgress (h : OnScript cfg image fs ans s) (p : Nat) : OnScript cfg image fs ans (setProgress p s) :=
  ⟨h.script.elim fun _ hl => ⟨_, hl.setProgress p⟩, h.faults⟩

theorem strideProgress (h : OnScript cfg image fs ans s) (lo hi n k : Nat) :
    OnScript cfg image fs ans (strideProgress lo hi n k s) := by
  unfold Machine.strideProgress
  split_ifs
  · exact h.setProgress _
  · exact h

theorem noteImageRead (h : OnScript cfg image fs ans s) (len : Word) (k : Nat) :
    OnScript cfg image (faultsAfterReads image len [k] fs) ans (noteImageRead len k s) := by
  obtain ⟨⟨l, hl⟩, rfl⟩ := h
  exact ⟨⟨l, hl.noteImageRead len k⟩, hl.image ▸ noteImageRead_faults len k s⟩

section
variable (hd : cfg.ackOk ≠ cfg.ackWait)
include hd

theorem memWrites (e : ErrorKind) (ws : List (Word × Word))
    (h : OnScript cfg image fs (okAcks cfg (2 * ws.length) ++ ans) s) :
    (memWrites e ws s).Ends none (OnScript cfg image fs ans) := by
  obtain ⟨⟨l, hl⟩, hf⟩ := h
  obtain ⟨t, ht, hat⟩ := hl.memWrites hd e ws
  have hwire := OnWire.memWrites e ws s
  rw [ht] at hwire
  exact ⟨t, ht, ⟨_, hat⟩, hwire.faults.trans hf⟩

theorem writeImageWord (base len : Word) (k : Nat) (h : OnScript cfg image fs (okAcks cfg 8 ++ ans) s) :
    (writeImageWord base len k s).Ends none (OnScript cfg image (faultsAfterReads image len [k] fs) ans) := by
  rw [show 8 = 4 + 4 from rfl, okAcks_add, List.append_assoc] at h
  rw [writeImageWord_eq]
  refine (memWrites hd _ (addressWrites s.cfg base k) (h.index k)).andThen fun t ht => ?_
  exact (memWrites hd _ (dataWrites t.cfg _) (ht.noteImageRead len k)).andThen fun u hu => .ok (hu.delay _)

/-- The words from `k` on are assembled one after another. -/
theorem writeWords (base len : Word) (n m k : Nat) (h : OnScript cfg image fs (okAcks cfg (8 * m) ++ ans) s) :
    (writeWords base len n m k s).Ends none
      (OnScript cfg image (faultsAfterReads image len (List.range' k m) fs) ans) := by
  induction m generalizing k fs s with
  | zero => exact .ok h
  | succ m ih =>
    rw [Nat.mul_succ, Nat.add_comm, okAcks_add, List.append_assoc] at h
    rw [List.range'_succ, faultsAfterReads_cons]
    exact (writeImageWord hd base len k h).andThen fun t ht => ih (k + 1) (ht.strideProgress ..)

theorem flashWrite (base len : Word) (h : OnScript cfg image fs (okAcks cfg (2 + 8 * wordCount len) ++ ans) s) :
    (flashWrite base len s).Ends none fun t =>
      OnScript cfg image (faultsAfterReads image len (List.range' 0 (wordCount len)) fs) ans t
        ∧ t.progress = t.cfg.pWriteEnd := by
  rw [okAcks_add, List.append_assoc] at h
  rw [Machine.flashWrite, memWriteOr_eq_memWrites]
  refine (memWrites hd _ [_] ((h.setProgress _).index _)).andThen fun t ht => ?_
  exact (writeWords hd base len _ _ 0 ht).andThen fun u hu => .ok ⟨hu.setProgress _, rfl⟩

end

end OnScript

end Sys2Proof.Machine
end

section
/-!
PROOFS. The statements about errors and model faults (60_exceptions.md).
-/

namespace Sys2Proof.Machine

/-- Settles O18: each command reports what its procedure raises. -/
theorem componentCommandsRaiseOnlyTheirOwnKinds : Obligations.ComponentCommandsRaiseOnlyTheirOwnKinds := by
  unfold Obligations.ComponentCommandsRaiseOnlyTheirOwnKinds
  intro s
  exact ⟨⟨_, rfl, report_resKind_mem (linkInit_raises s)⟩,
    ⟨_, rfl, report_resKind_mem (powerUp_raises s)⟩,
    ⟨_, rfl, report_resKind_mem (apConfig_raises s)⟩,
    ⟨_, rfl, report_resKind_mem (cpuHalt_raises s)⟩,
    ⟨_, rfl, report_resKind_mem (cpuReset_raises s)⟩,
    ⟨_, rfl, report_resKind_mem (massErase_raises s)⟩,
    ⟨_, rfl, report_resKind_mem (pageErase_raises s.argAddr s)⟩,
    ⟨_, rfl, report_resKind_mem (flashErase_raises s.argAddr s.argLen s)⟩,
    ⟨_, rfl, report_resKind_mem (flashWrite_raises s.argAddr s.argLen s)⟩,
    ⟨_, rfl, report_resKind_mem (flashVerify_raises s.argAddr s.argLen s)⟩,
    rfl, fun _ => resErrorCode_of_error⟩

/-- Settles O51: an instruction only adds to the faults, a write of a short image assembles the word of its first missing
byte, and an observation goes by whether the field is written. -/
theorem modelFaultsAreRecordedAndNeverCleared : Obligations.ModelFaultsAreRecordedAndNeverCleared := by
  unfold Obligations.ModelFaultsAreRecordedAndNeverCleared
  refine ⟨fun s t f hf h => ?kept, fun s rest ht hd hshort h => ?short, fun α f s => ?observed⟩
  case kept =>
    obtain ⟨-, rfl⟩ | ⟨w, rest, e, -, -, rfl⟩ | ⟨w, rest, i, u, -, -, hu, rfl⟩ := step_cases h
    · exact hf
    · exact hf
    · have hb : f ∈ (beginCommand i (acceptHostWrite w rest s)).faults := hf
      exact ((commands_reaches.of_exec hu).mem_faults hb :)
  case short =>
    have hs : OnScript s.cfg s.image s.faults s.answers s := ⟨⟨_, at_self ht⟩, rfl⟩
    rw [h] at hs
    obtain ⟨t, he, hscript, hprogress⟩ := hs.flashWrite hd s.argAddr s.argLen
    obtain ⟨l, hat⟩ := hscript.script
    exact ⟨_, next_report he, hscript.faults.trans (faultsAfterReads_of_short hshort _), rfl, hat.answers,
      hprogress.trans (congrArg Params.pWriteEnd hat.cfg)⟩
  case observed =>
    obtain ⟨v, hv, he⟩ | ⟨hn, he⟩ := readSession_cases f s
    · refine ⟨fun w hw => ?_, fun hn => (by cases hv.symm.trans hn), fun g => mem_recorded.2 (.inl rfl)⟩
      cases hv.symm.trans hw
      exact he
    · exact ⟨fun w hw => (by cases hn.symm.trans hw), fun _ => he, fun g => mem_recorded.2 (.inl rfl)⟩

/-- Settles O9: a step answers a fault neither where it refuses the parameters nor where it completes. -/
theorem stepWaitsOrStops : Obligations.StepWaitsOrStops := by
  unfold Obligations.StepWaitsOrStops
  have hrefused : ∀ s : State, s.cfg.valid = false → step s = .refused .badConfig := fun s hv => by simp [step, hv]
  refine ⟨fun s hv hh => by simp [step, hv, hh], hrefused, fun s f h => ?_⟩
  cases hv : s.cfg.valid with
  | false => cases (hrefused s hv).symm.trans h
  | true =>
    obtain ⟨t, ht⟩ := everyInstructionCompletes.2 s hv
    cases ht.symm.trans h

end Sys2Proof.Machine
end
